-- ==== Sys2Proof/Word.lean ====
section
/-! DEFINITION. Word.lean: the widths of the source's own types (00_scope.md R22) and of the core's
derived registers (10_state.md R44, R51, R52). Every value is unsigned (R21). -/

namespace Sys2Proof

/-- `u8` (R22): a byte of either memory, a code-table width, a literal. -/
abbrev Byte := BitVec 8

/-- `u16` (R22): a bitstream word, a block length, a code field. -/
abbrev Half := BitVec 16

/-- `u32` (R22): a host register, a position, a length. -/
abbrev Word := BitVec 32

/-- A source offset held in `blockStart`, 33 bits (10_state.md R44). -/
abbrev Offset := BitVec 33

/-- A tree index as the node entries hold it, 10 bits (10_state.md R52). -/
abbrev TreeIndex := BitVec 10

end Sys2Proof
end

