-- ==== Sys2Proof/Config.lean ====
section
/-! DEFINITION. Config.lean: what one built core fixes (the parameters LEAF_RULE and MATCH_FALLBACK,
00_scope.md R13 and R14) and the free values the spec leaves open (93_implementation_defined.md S1). -/

namespace Sys2Proof

/-- `LEAF_RULE` (R13, R183): how a stored node's flag bit sets its leaf bit. -/
inductive LeafRule where
  /-- code 0: a flag bit of 0 means leaf -/
  | flagClearIsLeaf
  /-- code 1: a flag bit of 1 means leaf -/
  | flagSetIsLeaf
  /-- code 2: every stored node is internal -/
  | allInternal
  /-- code 3: leaf when the derived right child lies outside the tree -/
  | childOutOfRange
  deriving DecidableEq, Repr

/-- `MATCH_FALLBACK` (R14, R218): the value of a match count whose selector is not 0 and whose
following bit is 0. -/
inductive MatchFallback where
  /-- code 0: `matchLengthBaseTable[0]` -/
  | base0
  /-- code 1: `matchLengthBaseTable[s]` -/
  | selector
  deriving DecidableEq, Repr

/-- The LEAF_RULE this hardware is built with (R13: "The spec's choice for this hardware"). -/
def Config.leafRule : LeafRule := .flagClearIsLeaf

/-- The MATCH_FALLBACK this hardware is built with (R14: "The spec's choice for this hardware"). -/
def Config.matchFallback : MatchFallback := .base0

/-- FREE VALUE (log entry 7): what the host's `n`-th read of an unspecified value answers, a read of
RESULT, WRITE_POS, a FAULT register or a destination byte while STATE is BUSY (R360, S1: "any value"). -/
opaque Config.busyRead : Nat → Word

end Sys2Proof
end

