-- ==== Sys2Proof/Syntax.lean ====
section
/-! DEFINITION. Syntax.lean: the instructions of the core, one constructor per row of
spec/opcode_table.json (30_encoding.md R149), the formats they are read in (R141 to R145, R132, R121,
R32), and the two header layouts that set their operands (R120, R131). -/

namespace Sys2Proof

/-- The eight formats of R149. Which one is read next is set by the sequencer (30_encoding.md R146). -/
inductive Format where
  /-- literal-run code, R141 -/
  | lr
  /-- match-count code, R142 -/
  | mc
  /-- offset code, R143 -/
  | off
  /-- Huffman traversal bit, R144 -/
  | huf
  /-- tree flag bit, R145 -/
  | tf
  /-- the first 32-bit word of a block, R132 -/
  | block
  /-- the signature word of a container, R121 -/
  | container
  /-- a host write to CTRL, R32 -/
  | hostreg
  deriving DecidableEq, Repr

/-- The code words, block kinds, container check and host command of R149. A field value is written
with its code word as in R153 (`LR.EXT1 <v>`, `OF.0 <d>`); a field is at most 16 bits (R164). -/
inductive Instr where
  /-- LR.BASE0 (R211) -/
  | lrBase0
  /-- LR.BASE1 (R212) -/
  | lrBase1
  /-- LR.EXT1 (R213) -/
  | lrExt1 (v : Half)
  /-- LR.EXT2 (R214) -/
  | lrExt2 (v : Half)
  /-- LR.EXT3 (R215) -/
  | lrExt3 (v : Half)
  /-- MC.BASE0 (R217) -/
  | mcBase0
  /-- MC.FB1 (R219) -/
  | mcFb1
  /-- MC.FB2 (R220) -/
  | mcFb2
  /-- MC.FB3 (R221) -/
  | mcFb3
  /-- MC.EXT1 (R222) -/
  | mcExt1 (v : Half)
  /-- MC.EXT2 (R223) -/
  | mcExt2 (v : Half)
  /-- MC.EXT3 (R224) -/
  | mcExt3 (v : Half)
  /-- OF.0 (R236) -/
  | of0 (d : Half)
  /-- OF.1 (R237) -/
  | of1 (d : Half)
  /-- OF.2 (R238) -/
  | of2 (d : Half)
  /-- OF.3 (R239) -/
  | of3 (d : Half)
  /-- HUF.0 (R191) -/
  | huf0
  /-- HUF.1 (R192) -/
  | huf1
  /-- TF.0 (R184) -/
  | tf0
  /-- TF.1 (R185) -/
  | tf1
  /-- BLOCK.STORED (R253): `compressedLength` is 0, `ulen` is `uncompressedLength` -/
  | blockStored (ulen : Half)
  /-- BLOCK.COMPRESSED (R231): `clen`, not 0, is `compressedLength` -/
  | blockCompressed (ulen clen : Half)
  /-- CONTAINER (R273) -/
  | container
  /-- CMD.START (R270): the CTRL write's bit 1 is SRC_PRESENT -/
  | cmdStart (srcPresent : Bool)
  deriving DecidableEq, Repr

/-- The format column of R149. -/
def Instr.format : Instr → Format
  | .lrBase0 | .lrBase1 | .lrExt1 _ | .lrExt2 _ | .lrExt3 _ => .lr
  | .mcBase0 | .mcFb1 | .mcFb2 | .mcFb3 | .mcExt1 _ | .mcExt2 _ | .mcExt3 _ => .mc
  | .of0 _ | .of1 _ | .of2 _ | .of3 _ => .off
  | .huf0 | .huf1 => .huf
  | .tf0 | .tf1 => .tf
  | .blockStored _ | .blockCompressed _ _ => .block
  | .container => .container
  | .cmdStart _ => .hostreg

/-- The container header (R120), held in the `ch.*` registers (10_state.md R49). -/
structure ContainerHeader where
  signature : Word
  uncompressedLength : Word
  compressedLength : Word
  blockCount : Half
  reserved : Byte
  huffmanTreeByteLength : Byte
  deriving DecidableEq, Repr

/-- The block header (R131), held in the `bh.*` registers (10_state.md R50). -/
structure BlockHeader where
  uncompressedLength : Half
  compressedLength : Half
  matchLengthBaseTable : Vector Half 4
  offsetCodeBitLengths : Vector Byte 4
  matchLengthCodeBitLengths : Vector Byte 3
  runLengthCodeBitLengths : Vector Byte 3
  runLengthBaseTable : Vector Byte 2
  deriving DecidableEq, Repr

/-- Every field 0: the value the model gives `ch.*` at reset (log entry 1). -/
def ContainerHeader.zero : ContainerHeader :=
  { signature := 0, uncompressedLength := 0, compressedLength := 0, blockCount := 0, reserved := 0,
    huffmanTreeByteLength := 0 }

/-- Every field 0: the value the model gives `bh.*` at reset (log entry 1). -/
def BlockHeader.zero : BlockHeader :=
  { uncompressedLength := 0, compressedLength := 0,
    matchLengthBaseTable := #v[0, 0, 0, 0], offsetCodeBitLengths := #v[0, 0, 0, 0],
    matchLengthCodeBitLengths := #v[0, 0, 0], runLengthCodeBitLengths := #v[0, 0, 0],
    runLengthBaseTable := #v[0, 0] }

end Sys2Proof
end

