-- ==== Sys2Proof/WellFormed.lean ====
section
/-! DEFINITION. WellFormed.lean: which instructions an encoding can hold, given the current block header
(30_encoding.md R147, R150, R153: "A value must fit its field width"). -/

namespace Sys2Proof

/-- The width in bits of the field that follows the prefix of `i` (R141 to R143), none for a code word
without a field. -/
def Instr.fieldWidth (bh : BlockHeader) : Instr → Option Nat
  | .lrExt1 _ => some bh.runLengthCodeBitLengths[0].toNat
  | .lrExt2 _ => some bh.runLengthCodeBitLengths[1].toNat
  | .lrExt3 _ => some bh.runLengthCodeBitLengths[2].toNat
  | .mcExt1 _ => some bh.matchLengthCodeBitLengths[0].toNat
  | .mcExt2 _ => some bh.matchLengthCodeBitLengths[1].toNat
  | .mcExt3 _ => some bh.matchLengthCodeBitLengths[2].toNat
  | .of0 _ => some bh.offsetCodeBitLengths[0].toNat
  | .of1 _ => some bh.offsetCodeBitLengths[1].toNat
  | .of2 _ => some bh.offsetCodeBitLengths[2].toNat
  | .of3 _ => some bh.offsetCodeBitLengths[3].toNat
  | .lrBase0 | .lrBase1 | .mcBase0 | .mcFb1 | .mcFb2 | .mcFb3 | .huf0 | .huf1 | .tf0 | .tf1
  | .blockStored _ | .blockCompressed _ _ | .container | .cmdStart _ => none

/-- The field value of `i`, 0 for a code word without a field. -/
def Instr.fieldValue : Instr → Half
  | .lrExt1 v | .lrExt2 v | .lrExt3 v | .mcExt1 v | .mcExt2 v | .mcExt3 v => v
  | .of0 d | .of1 d | .of2 d | .of3 d => d
  | .lrBase0 | .lrBase1 | .mcBase0 | .mcFb1 | .mcFb2 | .mcFb3 | .huf0 | .huf1 | .tf0 | .tf1
  | .blockStored _ | .blockCompressed _ _ | .container | .cmdStart _ => 0

/-- A field of `w` bits is legal and holds `v` (R150 (b), R153). -/
def fieldFits (w : Nat) (v : Half) : Bool := decide (w ≤ 16) && decide (v.toNat < 2 ^ w)

/-- Well-formedness: the field fits its width, and a compressed block's `compressedLength` is not 0
(R132). -/
def Instr.wf (bh : BlockHeader) (i : Instr) : Bool :=
  (match i.fieldWidth bh with
    | some w => fieldFits w i.fieldValue
    | none => true) &&
  (match i with
    | .blockCompressed _ clen => clen != 0
    | _ => true)

end Sys2Proof
end

