-- ==== Sys2Proof/Decode.lean ====
section
/-! DEFINITION. Decode.lean: byte and bit order (20_memory.md R83, R84), the decoder of every format of
30_encoding.md R141 to R149, and the encoder written from the same tables. -/

namespace Sys2Proof

/-! ### Byte and bit order -/

/-- A little-endian u16 from its bytes in storage order (R83). -/
def le16 (b0 b1 : Byte) : Half := b1 ++ b0

/-- A little-endian u32 from its bytes in storage order (R83). -/
def le32 (b0 b1 b2 b3 : Byte) : Word := b3 ++ b2 ++ b1 ++ b0

/-- The low `k` bits of `v`, most significant first, the order a field is read in (R140). -/
def bitsOf : Nat → Nat → List Bool
  | 0, _ => []
  | k + 1, v => v.testBit k :: bitsOf k v

/-- The first `n` bits of a stream as a number, the first bit most significant, and the bits after them
(R140); none when the stream is shorter. -/
def takeBits : Nat → List Bool → Option (Nat × List Bool)
  | 0, l => some (0, l)
  | _ + 1, [] => none
  | n + 1, b :: l => (takeBits n l).map fun (v, rest) => (b.toNat * 2 ^ n + v, rest)

/-- The stream bits of a byte sequence: most significant first within each little-endian 16-bit word
(R84). A last odd byte makes no word and gives no bit. -/
def streamBits : List Byte → List Bool
  | b0 :: b1 :: rest => bitsOf 16 (le16 b0 b1).toNat ++ streamBits rest
  | _ => []

/-! ### The decoder -/

/-- Why bytes are no instruction. -/
inductive DecodeError where
  /-- the stream ends inside the code word -/
  | truncated
  /-- a container word that is not the signature (R121, R150 (a)) -/
  | badSignature
  /-- a CTRL write whose START bit is 0: no command (R32) -/
  | noCommand
  /-- a bit format was given a word, or a word format a bitstream -/
  | wrongFormat
  deriving DecidableEq, Repr

/-- How a code word is read: a tree of reads in stream order (R140). -/
inductive CodeTree where
  /-- the code word is complete -/
  | instr (i : Instr)
  /-- a last field of `w` bits follows -/
  | field (w : Nat) (mk : Half → Instr)
  /-- `n` more prefix bits follow, and their value selects the rest -/
  | read (n : Nat) (k : Nat → CodeTree)

/-- Format LR (R141, R210). -/
def codeLr (bh : BlockHeader) : CodeTree :=
  .read 1 fun t => if t = 1 then .instr .lrBase0 else
    .read 2 fun s => match s with
      | 0 => .instr .lrBase1
      | 1 => .field bh.runLengthCodeBitLengths[0].toNat .lrExt1
      | 2 => .field bh.runLengthCodeBitLengths[1].toNat .lrExt2
      | _ => .field bh.runLengthCodeBitLengths[2].toNat .lrExt3

/-- Format MC (R142, R216): the bit after the selector is read only when the selector is not 0. -/
def codeMc (bh : BlockHeader) : CodeTree :=
  .read 2 fun s => match s with
    | 0 => .instr .mcBase0
    | 1 => .read 1 fun b => if b = 0 then .instr .mcFb1 else .field bh.matchLengthCodeBitLengths[0].toNat .mcExt1
    | 2 => .read 1 fun b => if b = 0 then .instr .mcFb2 else .field bh.matchLengthCodeBitLengths[1].toNat .mcExt2
    | _ => .read 1 fun b => if b = 0 then .instr .mcFb3 else .field bh.matchLengthCodeBitLengths[2].toNat .mcExt3

/-- Format OF (R143). -/
def codeOf (bh : BlockHeader) : CodeTree :=
  .read 2 fun s => match s with
    | 0 => .field bh.offsetCodeBitLengths[0].toNat .of0
    | 1 => .field bh.offsetCodeBitLengths[1].toNat .of1
    | 2 => .field bh.offsetCodeBitLengths[2].toNat .of2
    | _ => .field bh.offsetCodeBitLengths[3].toNat .of3

/-- Format HUF (R144). -/
def codeHuf : CodeTree := .read 1 fun b => .instr (if b = 1 then .huf1 else .huf0)

/-- Format TF (R145). -/
def codeTf : CodeTree := .read 1 fun f => .instr (if f = 1 then .tf1 else .tf0)

/-- The code of each bitstream format, none for a word format. -/
def codeOfFormat (bh : BlockHeader) : Format → Option CodeTree
  | .lr => some (codeLr bh)
  | .mc => some (codeMc bh)
  | .off => some (codeOf bh)
  | .huf => some codeHuf
  | .tf => some codeTf
  | .block | .container | .hostreg => none

/-- Read a code word off a stream of bits. A field wider than 16 bits is not read (R164): the code word
then has field value 0, and its meaning raises BitCountTooLarge. -/
def decodeTree : CodeTree → List Bool → Except DecodeError (Instr × List Bool)
  | .instr i, l => .ok (i, l)
  | .field w mk, l =>
    if 16 < w then .ok (mk 0, l) else
      match takeBits w l with
      | some (v, rest) => .ok (mk (BitVec.ofNat 16 v), rest)
      | none => .error .truncated
  | .read n k, l =>
    match takeBits n l with
    | some (v, rest) => decodeTree (k v) rest
    | none => .error .truncated

/-- The container signature `0x315F4A59` (00_scope.md R3, R29). -/
def magic : Word := 0x315F4A59

/-- The kind of a block from its first 32-bit word (R132). -/
def decodeBlockWord (w : Word) : Instr :=
  if w.extractLsb' 16 16 = 0 then .blockStored (w.extractLsb' 0 16)
  else .blockCompressed (w.extractLsb' 0 16) (w.extractLsb' 16 16)

/-- The word formats of R149. -/
def decodeWord (f : Format) (w : Word) : Except DecodeError Instr :=
  match f with
  | .block => .ok (decodeBlockWord w)
  | .container => if w = magic then .ok .container else .error .badSignature
  | .hostreg => if w.getLsbD 0 then .ok (.cmdStart (w.getLsbD 1)) else .error .noCommand
  | .lr | .mc | .off | .huf | .tf => .error .wrongFormat

/-- An encoded instruction: stream bits in consumption order, or one 32-bit little-endian word. -/
inductive Code where
  | bits (l : List Bool)
  | word (w : Word)
  deriving DecidableEq, Repr

/-- The decoder: the instruction of format `f` at the front of `c`, and the stream bits after it. -/
def decode (f : Format) (bh : BlockHeader) (c : Code) : Except DecodeError (Instr × List Bool) :=
  match codeOfFormat bh f, c with
  | some t, .bits l => decodeTree t l
  | some _, .word _ => .error .wrongFormat
  | none, .word w => (decodeWord f w).map fun i => (i, [])
  | none, .bits _ => .error .wrongFormat

/-- The decoder on bytes as the source memory stores them: a bit format reads them as a bit region from
its base (R84), a word format reads the first four as a little-endian u32 (R83). -/
def decodeBytes (f : Format) (bh : BlockHeader) (bytes : List Byte) : Except DecodeError Instr :=
  match codeOfFormat bh f, bytes with
  | some t, _ => (decodeTree t (streamBits bytes)).map Prod.fst
  | none, b0 :: b1 :: b2 :: b3 :: _ => decodeWord f (le32 b0 b1 b2 b3)
  | none, _ => .error .truncated

/-! ### The encoder -/

/-- A prefix of R149 followed by a field of `w` bits (R140). -/
def encodeField (pre : List Bool) (w : Byte) (v : Half) : Code := .bits (pre ++ bitsOf w.toNat v.toNat)

/-- The code word of a well-formed instruction (R141 to R145, R132, R121, R32), CTRL's reserved bits
written as 0. -/
def encode (bh : BlockHeader) : Instr → Code
  | .lrBase0 => .bits [true]
  | .lrBase1 => .bits [false, false, false]
  | .lrExt1 v => encodeField [false, false, true] bh.runLengthCodeBitLengths[0] v
  | .lrExt2 v => encodeField [false, true, false] bh.runLengthCodeBitLengths[1] v
  | .lrExt3 v => encodeField [false, true, true] bh.runLengthCodeBitLengths[2] v
  | .mcBase0 => .bits [false, false]
  | .mcFb1 => .bits [false, true, false]
  | .mcFb2 => .bits [true, false, false]
  | .mcFb3 => .bits [true, true, false]
  | .mcExt1 v => encodeField [false, true, true] bh.matchLengthCodeBitLengths[0] v
  | .mcExt2 v => encodeField [true, false, true] bh.matchLengthCodeBitLengths[1] v
  | .mcExt3 v => encodeField [true, true, true] bh.matchLengthCodeBitLengths[2] v
  | .of0 d => encodeField [false, false] bh.offsetCodeBitLengths[0] d
  | .of1 d => encodeField [false, true] bh.offsetCodeBitLengths[1] d
  | .of2 d => encodeField [true, false] bh.offsetCodeBitLengths[2] d
  | .of3 d => encodeField [true, true] bh.offsetCodeBitLengths[3] d
  | .huf0 => .bits [false]
  | .huf1 => .bits [true]
  | .tf0 => .bits [false]
  | .tf1 => .bits [true]
  | .blockStored u => .word ((0 : Half) ++ u)
  | .blockCompressed u c => .word (c ++ u)
  | .container => .word magic
  | .cmdStart p => .word (if p then 3 else 1)

/-- A code followed by more stream bits; a word stands alone. -/
def Code.followedBy (rest : List Bool) : Code → Code
  | .bits l => .bits (l ++ rest)
  | .word w => .word w

/-- How many bits a code holds. -/
def Code.length : Code → Nat
  | .bits l => l.length
  | .word _ => 32

/-! ### Words of the opcode table -/

/-- DESIGN CHOICE (log entry 9): the format a bare table word is read in. The table's rows of different
formats share their patterns (the prefix `1` is LR.BASE0, HUF.1 and TF.1), and only the sequencer tells
them apart. A word of up to 8 bits is a 3-bit prefix: first bit 0 is read as LR, first bit 1 as MC. A
32-bit word is the container signature, a CTRL write that sets no reserved bit, or else a block word. -/
def tableFormat (nbits w : Nat) : Format :=
  if nbits ≤ 8 then (if w % 8 < 4 then .lr else .mc)
  else if w % 2 ^ 32 = magic.toNat then .container
  else if w % 2 ^ 32 = 1 ∨ w % 2 ^ 32 = 3 then .hostreg
  else .block

/-- The bytes that hold a table word: a 3-bit prefix at the front of a bit region of two words (R84), or
a little-endian u32 (R83); every bit after it is 0. -/
def tableBytes (nbits w : Nat) : List Byte :=
  if nbits ≤ 8 then [0, BitVec.ofNat 8 (w % 8 * 32), 0, 0]
  else [BitVec.ofNat 8 w, BitVec.ofNat 8 (w / 2 ^ 8), BitVec.ofNat 8 (w / 2 ^ 16), BitVec.ofNat 8 (w / 2 ^ 24)]

/-- The instruction the decoder reads from a table word, under the block header of reset. -/
def decodeTableWord (nbits w : Nat) : Option Instr :=
  (decodeBytes (tableFormat nbits w) BlockHeader.zero (tableBytes nbits w)).toOption

end Sys2Proof
end

