-- ==== Sys2Proof/Machine/Memory.lean ====
section
/-! DEFINITION. Machine/Memory.lean: a byte memory as plain data (20_memory.md R80, R81): a list of
(offset, byte) pairs with strictly rising offsets and no entry equal to what an unlisted offset reads as.
One definition says what an unlisted offset reads as. -/

namespace Sys2Proof.Machine

/-- A byte-addressed memory (R80, R81), by offset. -/
abbrev Memory := List Host.Cell

/-- What an offset that nothing has written reads as. DESIGN CHOICE (log entry 2): the spec gives a byte
the host never loaded no value, and the destination's first contents are the host's (R104). -/
def Memory.unlisted : Byte := 0

/-- The byte at offset `a`. -/
def Memory.read : Memory → Nat → Byte
  | [], _ => Memory.unlisted
  | (b, v) :: m, a => if b = a then v else Memory.read m a

/-- The memory without an entry for `a`. -/
def Memory.erase (m : Memory) (a : Nat) : Memory := m.filter fun c => c.1 != a

/-- The memory with the pair `(a, v)` put before the first larger offset. -/
def Memory.insert : Memory → Nat → Byte → Memory
  | [], a, v => [(a, v)]
  | (b, w) :: m, a, v => if a < b then (a, v) :: (b, w) :: m else (b, w) :: Memory.insert m a v

/-- Write one byte, keeping the canonical form. -/
def Memory.write (m : Memory) (a : Nat) (v : Byte) : Memory :=
  if v = Memory.unlisted then m.erase a else (m.erase a).insert a v

/-- Write bytes at increasing offsets from `a`. -/
def Memory.writeBytes (m : Memory) (a : Nat) : List Byte → Memory
  | [] => m
  | v :: vs => Memory.writeBytes (m.write a v) (a + 1) vs

/-- The canonical form. -/
def Memory.wf : Memory → Bool
  | [] => true
  | (a, v) :: m => v != Memory.unlisted && m.all (fun c => decide (a < c.1)) && Memory.wf m

end Sys2Proof.Machine
end

