-- ==== Sys2Proof/Machine/State.lean ====
section
/-! DEFINITION. Machine/State.lean: everything the spec gives the core (10_state.md R30), as plain data,
the model's own bookkeeping, the outcomes of a step, and the machine right after reset (R58). -/

namespace Sys2Proof.Machine

/-- `seq`, the engine's sequencer (10_state.md R46). -/
inductive Seq where
  | idle | validate | buildTree | blockHeader | storedCopy | litCount | litSymbol
  | matchCount | matchItem | matchCopy | finish | done | error
  deriving DecidableEq, Repr

/-- A node entry of the tree array (10_state.md R52). -/
structure Node where
  isLeaf : Bool
  value : Byte
  left : Option TreeIndex
  right : Option TreeIndex
  deriving DecidableEq, Repr

/-- What the host can do (R31, R353, R350): register accesses, memory accesses, the reset. -/
inductive HostAct where
  /-- write `v` to the register at offset `off` -/
  | writeReg (off v : Word)
  /-- read the register at offset `off` -/
  | readReg (off : Word)
  /-- load a byte into the source memory -/
  | writeSrc (a : Word) (v : Byte)
  /-- read a byte of the source memory -/
  | readSrc (a : Word)
  /-- write a byte of the destination memory -/
  | writeDst (a : Word) (v : Byte)
  /-- read a byte of the destination memory -/
  | readDst (a : Word)
  /-- reset the core -/
  | reset
  deriving DecidableEq, Repr

/-- A host action that lands once the engine has taken `after` more steps. -/
structure HostEvent where
  after : Nat
  act : HostAct
  deriving DecidableEq, Repr

/-- The state of one core (R30). PARAM (R54) is held as its two fields, CTRL (R32) as its one stored bit,
STATUS (R33) as `seq` (its STATE, R46) and `code`. The fields from `node` on are the model's own: the
local values of a rule between two of its steps, and the host's side of the interface. -/
structure State where
  /-- CTRL.SRC_PRESENT, R32 -/
  srcPresent : Bool
  /-- STATUS.CODE, R33 -/
  code : Byte
  /-- SRC_LEN, R34 -/
  srcLen : Word
  /-- DST_CAP, R35 -/
  dstCap : Word
  /-- RESULT, R36 -/
  result : Word
  /-- WRITE_POS, R37 -/
  writePosReg : Word
  /-- FAULT_ADDR, R38 -/
  faultAddr : Word
  /-- FAULT_BITPOS, R39 -/
  faultBitpos : Word
  /-- FAULT_BLOCK, R40 -/
  faultBlock : Word
  /-- PARAM bits 1:0, R54 -/
  leafRule : LeafRule
  /-- PARAM bit 2, R54 -/
  matchFallback : MatchFallback
  /-- R41 -/
  bitPosition : Word
  /-- R42 -/
  bitBase : Word
  /-- R43 -/
  writePos : Word
  /-- R44 -/
  blockStart : Offset
  /-- R45 -/
  blockIndex : Half
  /-- R46 -/
  seq : Seq
  /-- R47 -/
  runRemaining : Word
  /-- R48 -/
  matchRemaining : Word
  /-- R48 -/
  matchDistance : Word
  /-- R49 -/
  ch : ContainerHeader
  /-- R50 -/
  bh : BlockHeader
  /-- R51, R52 -/
  tree : Vector Node 511
  /-- R51 -/
  treeSize : BitVec 9
  /-- source memory, R80 -/
  src : Memory
  /-- destination memory, R81; its contents at START are `DST_INIT`, R104 -/
  dst : Memory
  /-- model's own: `node` of DecodeSymbol (R190) between two of its bits -/
  node : TreeIndex
  /-- model's own: `len` of R235 between the match-count code and the offset code -/
  lenRead : Option Word
  /-- model's own: `i` of R182; 0 before its step (1) -/
  buildIndex : TreeIndex
  /-- model's own: `j` of R253 -/
  storedIndex : Half
  /-- model's own: the host actions still to come, the next one first -/
  pending : List HostEvent
  /-- model's own: what the host's last read answered -/
  readData : Word
  /-- model's own: how many unspecified values the host has read (log entry 7) -/
  freeCount : Nat
  deriving DecidableEq, Repr

/-- The model's own stops. The spec's errors and faults are no stop: they end the decode in state ERROR
(60_exceptions.md R320), which is a next state. -/
inductive Fault where
  /-- Raised by a meaning when the sequencer is in no state whose rule reads that code word (R46, R146):
  the spec gives the instruction no effect there. SAFE: `step` reads a code word only in such a state. -/
  | outOfSequence (mnemonic : String)
  /-- Raised by HUF.0 and HUF.1 at an internal node entry that holds no child. SAFE: tree construction
  gives every internal node both children (R181, R186), so no decode started by START reaches it. -/
  | absentChild
  deriving DecidableEq, Repr

/-- What the model refuses. -/
inductive Refusal where
  /-- Raised by an arm of `exec` that has no meaning yet: none. SAFE. -/
  | notModelled (mnemonic : String)
  /-- Raised by `step` when the host writes a memory while STATE is BUSY (70_reset_and_hazards.md R361,
  93_implementation_defined.md S2: "refuse"). SAFE. -/
  | hostMemoryWriteWhileBusy
  deriving DecidableEq, Repr

/-- What one step, or one instruction, answers. -/
abbrev Result := Host.Outcome State Fault Refusal

/-- A node entry at reset, all fields 0 and no children (log entry 1: the spec leaves it unspecified). -/
def Node.blank : Node := { isLeaf := false, value := 0, left := none, right := none }

/-- The machine right after reset (10_state.md R58, 70_reset_and_hazards.md R350), nothing loaded in
either memory and no host action to come. -/
def State.reset : State :=
  { srcPresent := false, code := 0, srcLen := 0, dstCap := 0, result := 0, writePosReg := 0,
    faultAddr := 0, faultBitpos := 0, faultBlock := 0,
    leafRule := Config.leafRule, matchFallback := Config.matchFallback,
    bitPosition := 0, bitBase := 0, writePos := 0, blockStart := 0, blockIndex := 0, seq := .idle,
    runRemaining := 0, matchRemaining := 0, matchDistance := 0,
    ch := ContainerHeader.zero, bh := BlockHeader.zero, tree := Vector.replicate 511 Node.blank,
    treeSize := 0, src := [], dst := [],
    node := 0, lenRead := none, buildIndex := 0, storedIndex := 0, pending := [], readData := 0,
    freeCount := 0 }

end Sys2Proof.Machine
end

