-- ==== Sys2Proof/Machine/Flags.lean ====
section
/-! DEFINITION. Machine/Flags.lean: the core's only status flags, STATUS.STATE and STATUS.CODE
(10_state.md R33, R55), the code table of failures (60_exceptions.md R301), and the words the host reads
from the registers (R31 to R40, R54). No code word writes a flag. -/

namespace Sys2Proof.Machine

/-- The failures of 60_exceptions.md R301. -/
inductive Failure where
  | invalidInput | signatureMismatch | destinationTooSmall
  | sourceOverrun | destOverrun | backrefBeforeStart | treeIndexOutOfRange
  | bitCountTooLarge | bitPositionOverflow
  deriving DecidableEq, Repr

/-- STATUS.CODE of each failure (R301). -/
def failureCode : Failure → Byte
  | .invalidInput => 0x01
  | .signatureMismatch => 0x02
  | .destinationTooSmall => 0x03
  | .sourceOverrun => 0x10
  | .destOverrun => 0x11
  | .backrefBeforeStart => 0x12
  | .treeIndexOutOfRange => 0x13
  | .bitCountTooLarge => 0x14
  | .bitPositionOverflow => 0x15

/-- STATUS.STATE (R33, R46): 0 IDLE, 1 BUSY, 2 DONE, 3 ERROR. -/
def statusState : Seq → BitVec 2
  | .idle => 0
  | .done => 2
  | .error => 3
  | .validate | .buildTree | .blockHeader | .storedCopy | .litCount | .litSymbol | .matchCount
  | .matchItem | .matchCopy | .finish => 1

/-- STATUS.STATE is BUSY. -/
def busy (s : State) : Bool := statusState s.seq == 1

/-- STATUS as the host reads it: STATE in bits 1:0, CODE in bits 15:8, every other bit 0 (R33). -/
def statusWord (s : State) : Word := (0 : Half) ++ s.code ++ (0 : BitVec 6) ++ statusState s.seq

/-- CTRL as the host reads it: SRC_PRESENT in bit 1, START and the reserved bits 0 (R32). -/
def ctrlWord (s : State) : Word := if s.srcPresent then 2 else 0

/-- The code of a LEAF_RULE (R13). -/
def leafRuleCode : LeafRule → BitVec 2
  | .flagClearIsLeaf => 0
  | .flagSetIsLeaf => 1
  | .allInternal => 2
  | .childOutOfRange => 3

/-- The code of a MATCH_FALLBACK (R14). -/
def matchFallbackCode : MatchFallback → BitVec 1
  | .base0 => 0
  | .selector => 1

/-- PARAM as the host reads it (R54). -/
def paramWord (s : State) : Word :=
  (0 : BitVec 29) ++ matchFallbackCode s.matchFallback ++ leafRuleCode s.leafRule

end Sys2Proof.Machine
end

