-- ==== Sys2Proof/Machine/Ops.lean ====
section
/-! DEFINITION. Machine/Ops.lean: the primitives of 00_scope.md R25 to R27 over the two memories, failure
entry (60_exceptions.md R320) with the new decode that follows it (R325, 44_container.md R270), the tree
array's accessors, and the framing of blocks (44_container.md R277). -/

namespace Sys2Proof.Machine

/-! ### Failure entry and the new decode -/

/-- `raise E(info)` (00_scope.md R27, 60_exceptions.md R320 steps (2) and (3)): the fault record is
written, then STATUS. What earlier steps of the same rule wrote stays. -/
def takeFailure (e : Failure) (info : Nat) (s : State) : State :=
  { s with
    writePosReg := s.writePos, faultAddr := BitVec.ofNat 32 info, faultBitpos := s.bitPosition,
    faultBlock := s.blockIndex.setWidth 32, code := failureCode e, seq := .error }

/-- The only way on from ERROR or DONE (60_exceptions.md R325, 44_container.md R283): what START sets
(R270), SRC_PRESENT first. -/
def startDecode (srcPresent : Bool) (s : State) : State :=
  { s with
    srcPresent := srcPresent, code := 0, result := 0, writePosReg := 0, faultAddr := 0, faultBitpos := 0,
    faultBlock := 0, writePos := 0, bitPosition := 0, bitBase := 0, blockIndex := 0, runRemaining := 0,
    matchRemaining := 0, matchDistance := 0, seq := .validate }

/-! ### Steps that may raise -/

/-- The outcome of an operation inside a rule: a value and the state after it, or the state in which a
raise left the machine. -/
inductive Res (α : Type) where
  | ok (a : α) (s : State)
  | raised (s : State)

/-- The next operation of a rule, not begun when an earlier one raised (R24, R27). -/
def Res.bind {α β : Type} (r : Res α) (f : α → State → Res β) : Res β :=
  match r with
  | .ok a s => f a s
  | .raised s => .raised s

/-- The state an operation ends in. -/
def Res.state {α : Type} : Res α → State
  | .ok _ s => s
  | .raised s => s

/-- A rule's end: either way a next state, a raise being the failure entry (R320). -/
def Res.toResult {α : Type} (r : Res α) : Result := .next r.state

/-- `raise E(info)` inside a rule. -/
def raise {α : Type} (e : Failure) (info : Nat) (s : State) : Res α := .raised (takeFailure e info s)

/-- Perform the operations of a list in order. -/
def Res.seqAll : List (State → Res Unit) → State → Res Unit
  | [], s => .ok () s
  | f :: fs, s => (f s).bind fun _ s => Res.seqAll fs s

/-! ### Memory access -/

/-- `SrcRead(a)` (R25). -/
def srcRead (a : Nat) (s : State) : Res Byte :=
  if s.srcLen.toNat ≤ a then raise .sourceOverrun a s else .ok (s.src.read a) s

/-- `SrcRead16(a)` (R25): the byte at `a` first. -/
def srcRead16 (a : Nat) (s : State) : Res Half :=
  (srcRead a s).bind fun b0 s => (srcRead (a + 1) s).bind fun b1 s => .ok (le16 b0 b1) s

/-- The u32 at `a`, its bytes in increasing offset order (20_memory.md R83, 44_container.md R272). -/
def srcRead32 (a : Nat) (s : State) : Res Word :=
  (srcRead a s).bind fun b0 s => (srcRead (a + 1) s).bind fun b1 s =>
  (srcRead (a + 2) s).bind fun b2 s => (srcRead (a + 3) s).bind fun b3 s => .ok (le32 b0 b1 b2 b3) s

/-- `DstRead(a)` (R26). -/
def dstRead (a : Nat) (s : State) : Res Byte :=
  if s.dstCap.toNat ≤ a then raise .destOverrun a s else .ok (s.dst.read a) s

/-- `DstWrite(a, v)` (R26). -/
def dstWrite (a : Nat) (v : Byte) (s : State) : Res Unit :=
  if s.dstCap.toNat ≤ a then raise .destOverrun a s else .ok () { s with dst := s.dst.write a v }

/-- The write every output byte makes (10_state.md R43): `DstWrite(writePos, v)`, then `writePos + 1`. -/
def appendByte (v : Byte) (s : State) : Res Unit :=
  (dstWrite s.writePos.toNat v s).bind fun _ s => .ok () { s with writePos := s.writePos + 1 }

/-! ### The tree array -/

/-- The entry at index `i`; an index past 510 names no entry (10_state.md R51) and answers a blank one. -/
def treeAt (s : State) (i : Nat) : Node := s.tree[i]?.getD Node.blank

/-- The tree array with entry `i` replaced; an index past 510 names no entry (10_state.md R51). -/
def setTree (i : Nat) (n : Node) (s : State) : State :=
  { s with tree := if h : i < 511 then s.tree.set i n h else s.tree }

/-- The left child an internal node of value `v` derives, exact (41_huffman.md R186). -/
def leftChild (v : Byte) : TreeIndex := BitVec.ofNat 10 (2 * v.toNat + 1)

/-- The right child an internal node of value `v` derives, exact (41_huffman.md R186). -/
def rightChild (v : Byte) : TreeIndex := BitVec.ofNat 10 (2 * v.toNat + 2)

/-- The synthesized root (41_huffman.md R181). -/
def rootNode : Node := { isLeaf := false, value := 0, left := some 1, right := some 2 }

/-- A stored node's entry (41_huffman.md R182 (c) and (d), R186, R187). -/
def storedNode (leaf : Bool) (v : Byte) : Node :=
  if leaf then { isLeaf := true, value := v, left := none, right := none }
  else { isLeaf := false, value := v, left := some (leftChild v), right := some (rightChild v) }

/-- `Leaf(f, v)` (41_huffman.md R183), L being `ch.huffmanTreeByteLength`. -/
def leafBit (rule : LeafRule) (len : Byte) (flag : Bool) (v : Byte) : Bool :=
  match rule with
  | .flagClearIsLeaf => !flag
  | .flagSetIsLeaf => flag
  | .allInternal => false
  | .childOutOfRange => decide (2 * len.toNat < 2 * v.toNat + 2)

/-- Where the block stream begins (41_huffman.md R188, 30_encoding.md R129). -/
def huffmanEnd (len : Byte) : Nat := 16 + 2 * len.toNat + 2 * ((2 * len.toNat + 15) / 16)

/-! ### Blocks -/

/-- The container's next step after a block whose framing has set `blockStart` (44_container.md R277). -/
def nextBlock (s : State) : State :=
  { s with
    blockIndex := s.blockIndex + 1,
    seq := if s.blockIndex + 1 = s.ch.blockCount then .finish else .blockHeader }

/-- The end of a compressed block: its framing, then the container's next step (43_block.md R251, R252). -/
def endCompressedBlock (s : State) : State :=
  nextBlock { s with blockStart := s.blockStart + s.bh.compressedLength.setWidth 33 }

/-- The end of a stored block: its framing, then the container's next step (43_block.md R254). -/
def endStoredBlock (s : State) : State :=
  nextBlock { s with blockStart := s.blockStart + 4 + s.bh.uncompressedLength.setWidth 33 }

/-- `s` answers `r` when its sequencer is where the code word named is read, and stops otherwise. -/
def inSequence (mnemonic : String) (here : Bool) (r : Result) : Result :=
  if here then r else .fault (.outOfSequence mnemonic)

end Sys2Proof.Machine
end

