-- ==== Sys2Proof/Machine/Operands.lean ====
section
/-! DEFINITION. Machine/Operands.lean: the BitCursor (40_bitcursor.md) and the operand forms of the code
words: base values (R148), the match-count fallback (42_runlength.md R218), field values. -/

namespace Sys2Proof.Machine

/-- The `n` bits (1 to 16) at offset `o` of word `w0` when they fit in it (R162 step 3). -/
def windowBits (w0 : Half) (o n : Nat) : Half := (w0 <<< o) >>> (16 - n)

/-- The `n` bits at offset `o` of word `w0` when they cross into word `w1` (R162 step 4). -/
def straddleBits (w0 w1 : Half) (o n : Nat) : Half :=
  ((w0 &&& ((0xFFFF : Half) >>> o)) <<< (n + o - 16)) ||| (w1 >>> (16 - (n + o - 16)))

/-- Step (5) of R162: consume `n` bits. -/
def advance (n : Nat) (s : State) : State := { s with bitPosition := s.bitPosition + BitVec.ofNat 32 n }

/-- `ReadBits(n)` (R162 to R166), its checks in the order of 60_exceptions.md R313. -/
def readBits (n : Nat) (s : State) : Res Half :=
  if 16 < n then raise .bitCountTooLarge n s
  else if n = 0 then .ok 0 s
  else if 2 ^ 32 - 1 < s.bitPosition.toNat + n then raise .bitPositionOverflow n s
  else
    let w := s.bitBase.toNat + 2 * (s.bitPosition.toNat / 16)
    let o := s.bitPosition.toNat % 16
    (srcRead16 w s).bind fun w0 s =>
      if n ≤ 16 - o then .ok (windowBits w0 o n) (advance n s)
      else (srcRead16 (w + 2) s).bind fun w1 s => .ok (straddleBits w0 w1 o n) (advance n s)

/-- The fallback value `FB(k)` of a match count with selector `k` 1, 2 or 3 (R218). -/
def fallback (s : State) (k : Fin 4) : Word :=
  match s.matchFallback with
  | .base0 => s.bh.matchLengthBaseTable[0].setWidth 32
  | .selector => s.bh.matchLengthBaseTable[k].setWidth 32

/-- A code word's field of width `w` has value `v`: a width above 16 raises BitCountTooLarge(w) in its
place, the prefix already consumed (40_bitcursor.md R164, 60_exceptions.md R309); otherwise `use` takes
the value, zero-extended (R148). -/
def withField (w : Byte) (v : Half) (s : State) (use : Word → Result) : Result :=
  if 16 < w.toNat then (raise (α := Unit) .bitCountTooLarge w.toNat s).toResult else use (v.setWidth 32)

end Sys2Proof.Machine
end

