-- ==== Sys2Proof/Machine/Block.lean ====
section
/-! DEFINITION. Machine/Block.lean: the meanings of the offset code words (43_block.md R235 to R239) and of
the two block kinds (R231, R253). The copies themselves are sequencer steps (Machine/Engine.lean). -/

namespace Sys2Proof.Machine

/-- Step (4) of R235: the match's length and distance are loaded. -/
def loadMatch (len dist : Word) (s : State) : State :=
  { s with matchRemaining := len, matchDistance := dist, lenRead := none, seq := .matchCopy }

/-- An offset code word, read in MATCH_ITEM after the match-count code (R235 steps (2) to (4)). -/
def execOffset (mnemonic : String) (w : Byte) (d : Half) (s : State) : Result :=
  match s.lenRead with
  | some len =>
    inSequence mnemonic (decide (s.seq = .matchItem)) (withField w d s fun dist => .next (loadMatch len dist s))
  | none => .fault (.outOfSequence mnemonic)

/-- OF.0 (R236). -/
def execOf0 (d : Half) (s : State) : Result := execOffset "OF.0" s.bh.offsetCodeBitLengths[0] d s

/-- OF.1 (R237). -/
def execOf1 (d : Half) (s : State) : Result := execOffset "OF.1" s.bh.offsetCodeBitLengths[1] d s

/-- OF.2 (R238). -/
def execOf2 (d : Half) (s : State) : Result := execOffset "OF.2" s.bh.offsetCodeBitLengths[2] d s

/-- OF.3 (R239). -/
def execOf3 (d : Half) (s : State) : Result := execOffset "OF.3" s.bh.offsetCodeBitLengths[3] d s

/-- The two lengths common to both kinds, read by the fetch (R231 step (1)). -/
def setLengths (ulen clen : Half) (s : State) : State :=
  { s with bh := { s.bh with uncompressedLength := ulen, compressedLength := clen } }

/-- BLOCK.STORED (R231 step (2), R253): go to STORED_COPY with `j = 0`. -/
def execBlockStored (ulen : Half) (s : State) : Result :=
  inSequence "BLOCK.STORED" (decide (s.seq = .blockHeader))
    (.next { setLengths ulen 0 s with storedIndex := 0, seq := .storedCopy })

/-- Load one u16 of the match length base table. -/
def loadMatchBase (j : Fin 4) (s : State) : Res Unit :=
  (srcRead16 (s.blockStart.toNat + 4 + 2 * j) s).bind fun v s =>
    .ok () { s with bh := { s.bh with matchLengthBaseTable := s.bh.matchLengthBaseTable.set j v } }

/-- Load one u8 of the offset widths. -/
def loadOffsetWidth (j : Fin 4) (s : State) : Res Unit :=
  (srcRead (s.blockStart.toNat + 12 + j) s).bind fun v s =>
    .ok () { s with bh := { s.bh with offsetCodeBitLengths := s.bh.offsetCodeBitLengths.set j v } }

/-- Load one u8 of the match length widths. -/
def loadMatchWidth (j : Fin 3) (s : State) : Res Unit :=
  (srcRead (s.blockStart.toNat + 16 + j) s).bind fun v s =>
    .ok () { s with bh := { s.bh with matchLengthCodeBitLengths := s.bh.matchLengthCodeBitLengths.set j v } }

/-- Load one u8 of the run length widths. -/
def loadRunWidth (j : Fin 3) (s : State) : Res Unit :=
  (srcRead (s.blockStart.toNat + 19 + j) s).bind fun v s =>
    .ok () { s with bh := { s.bh with runLengthCodeBitLengths := s.bh.runLengthCodeBitLengths.set j v } }

/-- Load one u8 of the run length base table. -/
def loadRunBase (j : Fin 2) (s : State) : Res Unit :=
  (srcRead (s.blockStart.toNat + 22 + j) s).bind fun v s =>
    .ok () { s with bh := { s.bh with runLengthBaseTable := s.bh.runLengthBaseTable.set j v } }

/-- The 20 table bytes in increasing offset order (R231 step (3), 30_encoding.md R131). -/
def loadTables : State → Res Unit :=
  Res.seqAll
    [loadMatchBase 0, loadMatchBase 1, loadMatchBase 2, loadMatchBase 3,
     loadOffsetWidth 0, loadOffsetWidth 1, loadOffsetWidth 2, loadOffsetWidth 3,
     loadMatchWidth 0, loadMatchWidth 1, loadMatchWidth 2,
     loadRunWidth 0, loadRunWidth 1, loadRunWidth 2,
     loadRunBase 0, loadRunBase 1]

/-- Step (4) of R231: the bitstream's region, and the first literal count. -/
def enterBitstream (s : State) : State :=
  { s with bitBase := BitVec.ofNat 32 (s.blockStart.toNat + 24), bitPosition := 0, seq := .litCount }

/-- BLOCK.COMPRESSED (R231 steps (3) and (4)). -/
def execBlockCompressed (ulen clen : Half) (s : State) : Result :=
  inSequence "BLOCK.COMPRESSED" (decide (s.seq = .blockHeader))
    ((loadTables (setLengths ulen clen s)).bind fun _ s => .ok () (enterBitstream s)).toResult

end Sys2Proof.Machine
end

