-- ==== Sys2Proof/Machine/Container.lean ====
section
/-! DEFINITION. Machine/Container.lean: the meanings of the container check (44_container.md R272 to R275)
and of the START command (R270). -/

namespace Sys2Proof.Machine

/-- Step (c) of R272: the 12 header bytes after the signature, in increasing offset order, each field
written as it is read. -/
def loadContainerHeader : State → Res Unit :=
  Res.seqAll
    [fun s => (srcRead32 4 s).bind fun v s => .ok () { s with ch := { s.ch with uncompressedLength := v } },
     fun s => (srcRead32 8 s).bind fun v s => .ok () { s with ch := { s.ch with compressedLength := v } },
     fun s => (srcRead16 12 s).bind fun v s => .ok () { s with ch := { s.ch with blockCount := v } },
     fun s => (srcRead 14 s).bind fun v s => .ok () { s with ch := { s.ch with reserved := v } },
     fun s => (srcRead 15 s).bind fun v s => .ok () { s with ch := { s.ch with huffmanTreeByteLength := v } }]

/-- The capacity check (R274), then BUILD_TREE (R275). -/
def checkCapacity (s : State) : Res Unit :=
  if s.dstCap.toNat < s.ch.uncompressedLength.toNat then raise .destinationTooSmall 0 s
  else .ok () { s with buildIndex := 0, seq := .buildTree }

/-- CONTAINER (R273 on the signature the fetch has read, then R272 (c), R274, R275). -/
def execContainer (s : State) : Result :=
  inSequence "CONTAINER" (decide (s.seq = .validate))
    (if s.ch.signature = magic then
      ((loadContainerHeader s).bind fun _ s => checkCapacity s).toResult
    else (raise (α := Unit) .signatureMismatch 0 s).toResult)

/-- CMD.START (R270); while STATE is BUSY the write is ignored in all its bits (R32, R363). -/
def execCmdStart (srcPresent : Bool) (s : State) : Result :=
  if busy s then .next s else .next (startDecode srcPresent s)

end Sys2Proof.Machine
end

