-- ==== Sys2Proof/Machine/Huffman.lean ====
section
/-! DEFINITION. Machine/Huffman.lean: the meanings of the traversal bits (41_huffman.md R191, R192) and of
the tree flag bits (R184, R185). A meaning starts where its one bit has been read. -/

namespace Sys2Proof.Machine

/-- The traversal stands at an internal node (R190 step (b)). -/
def walkSeq (s : State) : Bool := decide (s.seq = .litSymbol) && !(treeAt s s.node.toNat).isLeaf

/-- Steps (d) and (e) of R190: move to `next`, or raise TreeIndexOutOfRange (R193). -/
def moveTo (next : Option TreeIndex) (s : State) : Result :=
  match next with
  | none => .fault .absentChild
  | some n =>
    if s.treeSize.toNat < n.toNat then (raise (α := Unit) .treeIndexOutOfRange n.toNat s).toResult
    else .next { s with node := n }

/-- HUF.0 (R191). -/
def execHuf0 (s : State) : Result := inSequence "HUF.0" (walkSeq s) (moveTo (treeAt s s.node.toNat).left s)

/-- HUF.1 (R192). -/
def execHuf1 (s : State) : Result := inSequence "HUF.1" (walkSeq s) (moveTo (treeAt s s.node.toNat).right s)

/-- Node `buildIndex` is being built (R182 step (2)). -/
def nodeSeq (s : State) : Bool :=
  decide (s.seq = .buildTree ∧ 0 < s.buildIndex.toNat ∧ s.buildIndex.toNat ≤ s.treeSize.toNat)

/-- Node `i` of R182, its flag bit read: steps (b) to (d). -/
def buildNode (flag : Bool) (s : State) : Res Unit :=
  (srcRead (15 + s.buildIndex.toNat) s).bind fun v s =>
    let leaf := leafBit s.leafRule s.ch.huffmanTreeByteLength flag v
    .ok () { setTree s.buildIndex.toNat (storedNode leaf v) s with buildIndex := s.buildIndex + 1 }

/-- TF.0 (R184). -/
def execTf0 (s : State) : Result := inSequence "TF.0" (nodeSeq s) (buildNode false s).toResult

/-- TF.1 (R185). -/
def execTf1 (s : State) : Result := inSequence "TF.1" (nodeSeq s) (buildNode true s).toResult

end Sys2Proof.Machine
end

