-- ==== Sys2Proof/Machine/RunLength.lean ====
section
/-! DEFINITION. Machine/RunLength.lean: the meanings of the literal-run code words (42_runlength.md R210 to
R215) and the match-count code words (R216 to R224). A meaning starts where the code word's bits have been
read (Machine/Fetch.lean); what it does with the value is 43_block.md R232, R234 and R235. -/

namespace Sys2Proof.Machine

/-- LR code words are read in LIT_COUNT and in MATCH_COUNT (R210, R232, R234). -/
def countSeq (s : State) : Bool := decide (s.seq = .litCount ∨ s.seq = .matchCount)

/-- A run count `r` (43_block.md R232, R234, R251): 0 ends the block, any other loads the run. -/
def loadRunCount (r : Word) (s : State) : State :=
  if r = 0 then endCompressedBlock s
  else if s.seq = .litCount then { s with runRemaining := r, node := 0, seq := .litSymbol }
  else { s with runRemaining := r, lenRead := none, seq := .matchItem }

/-- A base form of LR. -/
def execRunBase (mnemonic : String) (r : Byte) (s : State) : Result :=
  inSequence mnemonic (countSeq s) (.next (loadRunCount (r.setWidth 32) s))

/-- An EXT form of LR. -/
def execRunField (mnemonic : String) (w : Byte) (v : Half) (s : State) : Result :=
  inSequence mnemonic (countSeq s) (withField w v s fun r => .next (loadRunCount r s))

/-- LR.BASE0 (R211). -/
def execLrBase0 (s : State) : Result := execRunBase "LR.BASE0" s.bh.runLengthBaseTable[0] s

/-- LR.BASE1 (R212). -/
def execLrBase1 (s : State) : Result := execRunBase "LR.BASE1" s.bh.runLengthBaseTable[1] s

/-- LR.EXT1 (R213). -/
def execLrExt1 (v : Half) (s : State) : Result := execRunField "LR.EXT1" s.bh.runLengthCodeBitLengths[0] v s

/-- LR.EXT2 (R214). -/
def execLrExt2 (v : Half) (s : State) : Result := execRunField "LR.EXT2" s.bh.runLengthCodeBitLengths[1] v s

/-- LR.EXT3 (R215). -/
def execLrExt3 (v : Half) (s : State) : Result := execRunField "LR.EXT3" s.bh.runLengthCodeBitLengths[2] v s

/-- MC code words are read in MATCH_ITEM before the offset code (R216, 43_block.md R235). -/
def lengthSeq (s : State) : Bool := decide (s.seq = .matchItem ∧ s.lenRead = none)

/-- A match length is known; the offset code comes next (43_block.md R235 steps (1) and (2)). -/
def loadLength (len : Word) (s : State) : State := { s with lenRead := some len }

/-- A base or fallback form of MC. -/
def execLengthBase (mnemonic : String) (len : Word) (s : State) : Result :=
  inSequence mnemonic (lengthSeq s) (.next (loadLength len s))

/-- An EXT form of MC. -/
def execLengthField (mnemonic : String) (w : Byte) (v : Half) (s : State) : Result :=
  inSequence mnemonic (lengthSeq s) (withField w v s fun len => .next (loadLength len s))

/-- MC.BASE0 (R217). -/
def execMcBase0 (s : State) : Result :=
  execLengthBase "MC.BASE0" (s.bh.matchLengthBaseTable[0].setWidth 32) s

/-- MC.FB1 (R219). -/
def execMcFb1 (s : State) : Result := execLengthBase "MC.FB1" (fallback s 1) s

/-- MC.FB2 (R220). -/
def execMcFb2 (s : State) : Result := execLengthBase "MC.FB2" (fallback s 2) s

/-- MC.FB3 (R221). -/
def execMcFb3 (s : State) : Result := execLengthBase "MC.FB3" (fallback s 3) s

/-- MC.EXT1 (R222). -/
def execMcExt1 (v : Half) (s : State) : Result :=
  execLengthField "MC.EXT1" s.bh.matchLengthCodeBitLengths[0] v s

/-- MC.EXT2 (R223). -/
def execMcExt2 (v : Half) (s : State) : Result :=
  execLengthField "MC.EXT2" s.bh.matchLengthCodeBitLengths[1] v s

/-- MC.EXT3 (R224). -/
def execMcExt3 (v : Half) (s : State) : Result :=
  execLengthField "MC.EXT3" s.bh.matchLengthCodeBitLengths[2] v s

end Sys2Proof.Machine
end

