-- ==== Sys2Proof/Machine/Dispatch.lean ====
section
/-! DEFINITION. Machine/Dispatch.lean: one arm per instruction, each one call of its meaning. -/

namespace Sys2Proof.Machine

/-- What an instruction does in a state whose fetch is done (Machine/Fetch.lean). -/
def exec (i : Instr) (s : State) : Host.Outcome State Fault Refusal :=
  match i with
  | .lrBase0 => Sys2Proof.Machine.execLrBase0 s
  | .lrBase1 => Sys2Proof.Machine.execLrBase1 s
  | .lrExt1 v => Sys2Proof.Machine.execLrExt1 v s
  | .lrExt2 v => Sys2Proof.Machine.execLrExt2 v s
  | .lrExt3 v => Sys2Proof.Machine.execLrExt3 v s
  | .mcBase0 => Sys2Proof.Machine.execMcBase0 s
  | .mcFb1 => Sys2Proof.Machine.execMcFb1 s
  | .mcFb2 => Sys2Proof.Machine.execMcFb2 s
  | .mcFb3 => Sys2Proof.Machine.execMcFb3 s
  | .mcExt1 v => Sys2Proof.Machine.execMcExt1 v s
  | .mcExt2 v => Sys2Proof.Machine.execMcExt2 v s
  | .mcExt3 v => Sys2Proof.Machine.execMcExt3 v s
  | .of0 d => Sys2Proof.Machine.execOf0 d s
  | .of1 d => Sys2Proof.Machine.execOf1 d s
  | .of2 d => Sys2Proof.Machine.execOf2 d s
  | .of3 d => Sys2Proof.Machine.execOf3 d s
  | .huf0 => Sys2Proof.Machine.execHuf0 s
  | .huf1 => Sys2Proof.Machine.execHuf1 s
  | .tf0 => Sys2Proof.Machine.execTf0 s
  | .tf1 => Sys2Proof.Machine.execTf1 s
  | .blockStored ulen => Sys2Proof.Machine.execBlockStored ulen s
  | .blockCompressed ulen clen => Sys2Proof.Machine.execBlockCompressed ulen clen s
  | .container => Sys2Proof.Machine.execContainer s
  | .cmdStart srcPresent => Sys2Proof.Machine.execCmdStart srcPresent s

end Sys2Proof.Machine
end

