-- ==== Sys2Proof/Machine/Engine.lean ====
section
/-! DEFINITION. Machine/Engine.lean: the sequencer steps that read no code word: the ends of tree
construction (41_huffman.md R182), a decoded literal (43_block.md R233), one stored byte (R253), one copied
byte (R247), FINISH (44_container.md R279). -/

namespace Sys2Proof.Machine

/-- R182 step (1). -/
def beginTree (s : State) : State :=
  { setTree 0 rootNode s with
    treeSize := BitVec.ofNat 9 (2 * s.ch.huffmanTreeByteLength.toNat),
    bitBase := BitVec.ofNat 32 (16 + 2 * s.ch.huffmanTreeByteLength.toNat),
    bitPosition := 0, buildIndex := 1 }

/-- R182 step (3), then the first block or FINISH (44_container.md R276). -/
def endTree (s : State) : State :=
  { s with
    blockStart := BitVec.ofNat 33 (huffmanEnd s.ch.huffmanTreeByteLength), blockIndex := 0,
    seq := if s.ch.blockCount = 0 then .finish else .blockHeader }

/-- R233 steps (2) and (3), `node` being the leaf that DecodeSymbol returned (R190 step (a)); the next
symbol starts at the root (R190 step (1)). -/
def emitLiteral (s : State) : Res Unit :=
  (appendByte (treeAt s s.node.toNat).value s).bind fun _ s =>
    .ok () { s with
      runRemaining := s.runRemaining - 1, node := 0,
      seq := if s.runRemaining - 1 = 0 then .matchCount else .litSymbol }

/-- One step of R253: byte `j` of the stored block, or, all bytes copied, its framing. -/
def stepStored (s : State) : Res Unit :=
  if s.storedIndex.toNat < s.bh.uncompressedLength.toNat then
    (srcRead (s.blockStart.toNat + 4 + s.storedIndex.toNat) s).bind fun y s =>
    (appendByte y s).bind fun _ s => .ok () { s with storedIndex := s.storedIndex + 1 }
  else .ok () (endStoredBlock s)

/-- R247 step (1): the match is done. -/
def endMatch (s : State) : State :=
  { s with
    runRemaining := s.runRemaining - 1,
    seq := if s.runRemaining - 1 = 0 then .litCount else .matchItem }

/-- One step of R247: the read comes before the write, and the bound of R245 before both. -/
def stepCopy (s : State) : Res Unit :=
  if s.matchRemaining = 0 then .ok () (endMatch s)
  else if s.writePos.toNat < s.matchDistance.toNat then raise .backrefBeforeStart s.matchDistance.toNat s
  else
    (dstRead (s.writePos.toNat - s.matchDistance.toNat) s).bind fun y s =>
    (appendByte y s).bind fun _ s => .ok () { s with matchRemaining := s.matchRemaining - 1 }

/-- FINISH (44_container.md R279). -/
def finishDecode (s : State) : State :=
  { s with result := s.ch.uncompressedLength, writePosReg := s.writePos, code := 0, seq := .done }

end Sys2Proof.Machine
end

