-- ==== Sys2Proof/Machine/HostAccess.lean ====
section
/-! DEFINITION. Machine/HostAccess.lean: the host's accesses to the registers and memories (10_state.md R31
to R40, R54, 70_reset_and_hazards.md R351, R353, R360 to R362). A write to CTRL with START = 1 is the
instruction CMD.START and is not here. -/

namespace Sys2Proof.Machine

/-- The registers whose value the host may not rely on while STATE is BUSY (R36, R37, R360, S1). -/
def openWhileBusy (off : Word) : Bool := decide (off ∈ ([0x10, 0x14, 0x18, 0x1C, 0x20] : List Word))

/-- The register at offset `off`; an offset not in the table reads 0 (R31). -/
def regRead (off : Word) (s : State) : Word :=
  if off = 0x00 then ctrlWord s
  else if off = 0x04 then statusWord s
  else if off = 0x08 then s.srcLen
  else if off = 0x0C then s.dstCap
  else if off = 0x10 then s.result
  else if off = 0x14 then s.writePosReg
  else if off = 0x18 then s.faultAddr
  else if off = 0x1C then s.faultBitpos
  else if off = 0x20 then s.faultBlock
  else if off = 0x24 then paramWord s
  else 0

/-- A write to a register that starts no decode (R31 to R35): CTRL keeps bit 1, SRC_LEN and DST_CAP take
the value; every other offset, and every write while STATE is BUSY (R362), is ignored. -/
def regWrite (off v : Word) (s : State) : State :=
  if busy s then s
  else if off = 0x00 then { s with srcPresent := v.getLsbD 1 }
  else if off = 0x08 then { s with srcLen := v }
  else if off = 0x0C then { s with dstCap := v }
  else s

/-- The host's register read answers a value the spec leaves open: a fresh free value. -/
def answerOpen (s : State) : State :=
  { s with readData := Config.busyRead s.freeCount, freeCount := s.freeCount + 1 }

/-- The same for a read of one byte. -/
def answerOpenByte (s : State) : State :=
  { s with readData := ((Config.busyRead s.freeCount).setWidth 8).setWidth 32, freeCount := s.freeCount + 1 }

/-- Reset (R350, R351): every register takes its reset value, PARAM keeps its own (R54), both memories stay,
and the host's side of the interface is not the core's. -/
def resetCore (s : State) : State :=
  { State.reset with
    leafRule := s.leafRule, matchFallback := s.matchFallback, src := s.src, dst := s.dst,
    pending := s.pending, readData := s.readData, freeCount := s.freeCount }

/-- One host action other than a START write. -/
def hostAccess (act : HostAct) (s : State) : Result :=
  match act with
  | .writeReg off v => .next (regWrite off v s)
  | .readReg off =>
    .next (if busy s && openWhileBusy off then answerOpen s else { s with readData := regRead off s })
  | .writeSrc a v =>
    if busy s then .refused .hostMemoryWriteWhileBusy else .next { s with src := s.src.write a.toNat v }
  | .readSrc a => .next { s with readData := (s.src.read a.toNat).setWidth 32 }
  | .writeDst a v =>
    if busy s then .refused .hostMemoryWriteWhileBusy else .next { s with dst := s.dst.write a.toNat v }
  | .readDst a =>
    .next (if busy s then answerOpenByte s else { s with readData := (s.dst.read a.toNat).setWidth 32 })
  | .reset => .next (resetCore s)

end Sys2Proof.Machine
end

