-- ==== Sys2Proof/Machine/Fetch.lean ====
section
/-! DEFINITION. Machine/Fetch.lean: what the next step is: which agent moves, and, when a rule reads a code
word, the word it reads. Reading consumes the code word's bits, so a failing read raises here
(40_bitcursor.md R162, 42_runlength.md R210: "a fault leaves bitPosition after the bits the earlier steps
consumed"). -/

namespace Sys2Proof.Machine

/-- The next step: an instruction to run in a state whose fetch is done, or a step that runs none. -/
inductive Fetched where
  | instr (i : Instr) (s : State)
  | other (r : Result)

/-- A fetch whose reads may raise. -/
def Res.toFetched (r : Res Instr) : Fetched :=
  match r with
  | .ok i s => .instr i s
  | .raised s => .other (.next s)

/-- Read a code word with ReadBits, in stream order (30_encoding.md R140). A field wider than 16 bits is
not read here: its meaning raises BitCountTooLarge (40_bitcursor.md R164). -/
def fetchTree : CodeTree → State → Res Instr
  | .instr i, s => .ok i s
  | .field w mk, s =>
    if 16 < w then .ok (mk 0) s else (readBits w s).bind fun v s => .ok (mk v) s
  | .read n k, s => (readBits n s).bind fun v s => fetchTree (k v.toNat) s

/-- A block's first word at `blockStart` (43_block.md R231 step (1)). The two lengths are registers and are
written as they are read. -/
def fetchBlock (s : State) : Res Instr :=
  (srcRead16 s.blockStart.toNat s).bind fun ulen s =>
  (srcRead16 (s.blockStart.toNat + 2) { s with bh := { s.bh with uncompressedLength := ulen } }).bind fun clen s =>
    .ok (decodeBlockWord (clen ++ ulen)) { s with bh := { s.bh with compressedLength := clen } }

/-- The presence check (44_container.md R271), the signature read (R272 (a)), and the signature's decoding:
any other word is no container (30_encoding.md R150 (a)) and raises SignatureMismatch (R273). -/
def fetchContainer (s : State) : Res Instr :=
  if s.srcPresent then
    (srcRead32 0 s).bind fun w s =>
      let s := { s with ch := { s.ch with signature := w } }
      match decodeWord .container w with
      | .ok i => .ok i s
      | .error _ => raise .signatureMismatch 0 s
  else raise .invalidInput 0 s

/-- The engine's next step, by its sequencer state (10_state.md R46). -/
def fetchEngine (s : State) : Fetched :=
  match s.seq with
  | .idle | .done | .error => .other (.next s)
  | .validate => (fetchContainer s).toFetched
  | .buildTree =>
    if s.buildIndex = 0 then .other (.next (beginTree s))
    else if s.buildIndex.toNat ≤ s.treeSize.toNat then (fetchTree codeTf s).toFetched
    else .other (.next (endTree s))
  | .blockHeader => (fetchBlock s).toFetched
  | .storedCopy => .other (stepStored s).toResult
  | .litCount => (fetchTree (codeLr s.bh) s).toFetched
  | .litSymbol =>
    if (treeAt s s.node.toNat).isLeaf then .other (emitLiteral s).toResult else (fetchTree codeHuf s).toFetched
  | .matchCount => (fetchTree (codeLr s.bh) s).toFetched
  | .matchItem =>
    match s.lenRead with
    | none => (fetchTree (codeMc s.bh) s).toFetched
    | some _ => (fetchTree (codeOf s.bh) s).toFetched
  | .matchCopy => .other (stepCopy s).toResult
  | .finish => .other (.next (finishDecode s))

/-- The host's turn: a START write to CTRL is fetched as an instruction (R149), any other action is made. -/
def fetchHost (act : HostAct) (s : State) : Fetched :=
  match act with
  | .writeReg off v =>
    if off = 0 then
      match decodeWord .hostreg v with
      | .ok i => .instr i s
      | .error _ => .other (hostAccess act s)
    else .other (hostAccess act s)
  | _ => .other (hostAccess act s)

/-- The agent that moves next: the host when its next action is due, else the engine. -/
def fetch (s : State) : Fetched :=
  match s.pending with
  | [] => fetchEngine s
  | ev :: rest =>
    match ev.after with
    | 0 => fetchHost ev.act { s with pending := rest }
    | n + 1 => fetchEngine { s with pending := { ev with after := n } :: rest }

/-- `s` with the table word placed where the engine, or the host, takes its next instruction. -/
def placeWord (nbits w : Nat) (s : State) : State :=
  let bytes := tableBytes nbits w
  match tableFormat nbits w with
  | .hostreg =>
    { s with
      pending := [{ after := 0, act := .writeReg 0 (BitVec.ofNat 32 w) }],
      seq := if busy s then .idle else s.seq }
  | .container =>
    { s with
      pending := [], seq := .validate, srcPresent := true, srcLen := 16,
      src := s.src.writeBytes 0 (bytes ++ List.replicate 12 0) }
  | .block =>
    { s with
      pending := [], seq := .blockHeader, blockStart := 0, srcLen := 24,
      src := s.src.writeBytes 0 (bytes ++ List.replicate 20 0) }
  | .mc =>
    { s with
      pending := [], seq := .matchItem, lenRead := none, bitBase := 0, bitPosition := 0, srcLen := 4,
      src := s.src.writeBytes 0 bytes }
  | .lr | .off | .huf | .tf =>
    { s with
      pending := [], seq := .litCount, bitBase := 0, bitPosition := 0, srcLen := 4,
      src := s.src.writeBytes 0 bytes }

end Sys2Proof.Machine
end

