-- ==== Sys2Proof/Machine/Step.lean ====
section
/-! DEFINITION. Machine/Step.lean: one step of the machine, and where a table word is placed for the next
step to run. -/

namespace Sys2Proof.Machine

/-- One step: the next host action or sequencer step (70_reset_and_hazards.md R368), running the
instruction it reads, if it reads one. -/
def step (s : State) : Host.Outcome State Fault Refusal :=
  match fetch s with
  | .instr i s' => exec i s'
  | .other r => r

/-- `s` with the table word placed so that the very next step runs it (log entries 9 and 10). -/
def State.withFetchWord (s : State) (nbits w : Nat) : State := placeWord nbits w s

end Sys2Proof.Machine
end

