-- ==== Sys2Proof/Safety.lean ====
section
/-! DEFINITION. Safety.lean: the terms that claims about the core are stated in: the stream bits of the
current region, which format is due, the values the tables of 30_encoding.md give, the invariants of a
decode, and what two launches have in common. -/

namespace Sys2Proof.Machine

/-! ### The bitstream -/

/-- Stream bit `j` of the current region (20_memory.md R84). -/
def streamBit (s : State) (j : Nat) : Bool :=
  (le16 (s.src.read (s.bitBase.toNat + 2 * (j / 16))) (s.src.read (s.bitBase.toNat + 2 * (j / 16) + 1))).getLsbD
    (15 - j % 16)

/-- The next `n` stream bits, in consumption order. -/
def streamFrom (s : State) (n : Nat) : List Bool :=
  (List.range n).map fun k => streamBit s (s.bitPosition.toNat + k)

/-- `n` bits (at least 1) can be read: no position overflow (R165), and their words below SRC_LEN (R166). -/
abbrev readable (s : State) (n : Nat) : Prop :=
  s.bitPosition.toNat + n ≤ 2 ^ 32 - 1 ∧
  s.bitBase.toNat + 2 * ((s.bitPosition.toNat + n - 1) / 16) + 1 < s.srcLen.toNat

/-- The format the engine reads next, by the grammar of 30_encoding.md R146 and the sequencer's rules. -/
def formatDue (s : State) : Option Format :=
  match s.seq with
  | .validate => some .container
  | .buildTree =>
    if 0 < s.buildIndex.toNat ∧ s.buildIndex.toNat ≤ s.treeSize.toNat then some .tf else none
  | .blockHeader => some .block
  | .litCount | .matchCount => some .lr
  | .litSymbol => if (treeAt s s.node.toNat).isLeaf then none else some .huf
  | .matchItem => if s.lenRead.isNone then some .mc else some .off
  | .idle | .storedCopy | .matchCopy | .finish | .done | .error => none

/-- How many bits the next read of a code word asks for, when its earlier reads have consumed the bits `l`
(30_encoding.md R141 to R145, R147); none when the code word is complete or `l` ends inside a read. -/
def nextRead (f : Format) (bh : BlockHeader) (l : List Bool) : Option Nat :=
  match f, l with
  | .lr, [] => some 1
  | .lr, [false] => some 2
  | .lr, [false, false, true] => some bh.runLengthCodeBitLengths[0].toNat
  | .lr, [false, true, false] => some bh.runLengthCodeBitLengths[1].toNat
  | .lr, [false, true, true] => some bh.runLengthCodeBitLengths[2].toNat
  | .mc, [] => some 2
  | .mc, [false, true] | .mc, [true, false] | .mc, [true, true] => some 1
  | .mc, [false, true, true] => some bh.matchLengthCodeBitLengths[0].toNat
  | .mc, [true, false, true] => some bh.matchLengthCodeBitLengths[1].toNat
  | .mc, [true, true, true] => some bh.matchLengthCodeBitLengths[2].toNat
  | .off, [] => some 2
  | .off, [false, false] => some bh.offsetCodeBitLengths[0].toNat
  | .off, [false, true] => some bh.offsetCodeBitLengths[1].toNat
  | .off, [true, false] => some bh.offsetCodeBitLengths[2].toNat
  | .off, [true, true] => some bh.offsetCodeBitLengths[3].toNat
  | .huf, [] | .tf, [] => some 1
  | _, _ => none

/-! ### The values of the code words (30_encoding.md R141 to R143) -/

/-- A field of width `w`: its value when the width is legal (R148, R150). -/
def legalField (w : Byte) (v : Half) : Option Word := if w.toNat ≤ 16 then some (v.setWidth 32) else none

/-- The table of R141. -/
def runValue (s : State) : Instr → Option Word
  | .lrBase0 => some (s.bh.runLengthBaseTable[0].setWidth 32)
  | .lrBase1 => some (s.bh.runLengthBaseTable[1].setWidth 32)
  | .lrExt1 v => legalField s.bh.runLengthCodeBitLengths[0] v
  | .lrExt2 v => legalField s.bh.runLengthCodeBitLengths[1] v
  | .lrExt3 v => legalField s.bh.runLengthCodeBitLengths[2] v
  | _ => none

/-- The table of R142, `FB(s)` by 42_runlength.md R218. -/
def lengthValue (s : State) : Instr → Option Word
  | .mcBase0 => some (s.bh.matchLengthBaseTable[0].setWidth 32)
  | .mcFb1 => some ((if s.matchFallback = .base0 then s.bh.matchLengthBaseTable[0] else s.bh.matchLengthBaseTable[1]).setWidth 32)
  | .mcFb2 => some ((if s.matchFallback = .base0 then s.bh.matchLengthBaseTable[0] else s.bh.matchLengthBaseTable[2]).setWidth 32)
  | .mcFb3 => some ((if s.matchFallback = .base0 then s.bh.matchLengthBaseTable[0] else s.bh.matchLengthBaseTable[3]).setWidth 32)
  | .mcExt1 v => legalField s.bh.matchLengthCodeBitLengths[0] v
  | .mcExt2 v => legalField s.bh.matchLengthCodeBitLengths[1] v
  | .mcExt3 v => legalField s.bh.matchLengthCodeBitLengths[2] v
  | _ => none

/-- The table of R143. -/
def distanceValue (s : State) : Instr → Option Word
  | .of0 d => legalField s.bh.offsetCodeBitLengths[0] d
  | .of1 d => legalField s.bh.offsetCodeBitLengths[1] d
  | .of2 d => legalField s.bh.offsetCodeBitLengths[2] d
  | .of3 d => legalField s.bh.offsetCodeBitLengths[3] d
  | _ => none

/-- A state in ERROR with this code and information value, the rest of the record as R320 step (2) has it. -/
abbrev failedWith (t : State) (code : Byte) (addr : Nat) : Prop :=
  t.seq = .error ∧ t.code = code ∧ t.faultAddr = BitVec.ofNat 32 addr ∧ t.writePosReg = t.writePos ∧
  t.faultBitpos = t.bitPosition ∧ t.faultBlock = t.blockIndex.setWidth 32

/-- The codes STATUS.CODE can hold in state ERROR (60_exceptions.md R301). -/
def failureCodes : List Byte := [0x01, 0x02, 0x03, 0x10, 0x11, 0x12, 0x13, 0x14, 0x15]

/-! ### Sequencer states -/

/-- Inside the bitstream of a compressed block. -/
def inBitstream (q : Seq) : Bool :=
  match q with
  | .litCount | .litSymbol | .matchCount | .matchItem | .matchCopy => true
  | _ => false

/-- At a block: its header, its copy, or its bitstream. -/
def inBlock (q : Seq) : Bool := q == .blockHeader || q == .storedCopy || inBitstream q

/-! ### Invariants -/

/-- Both memories are in canonical form. -/
abbrev InvMem (s : State) : Prop := s.src.wf = true ∧ s.dst.wf = true

/-- STATUS.CODE is 0 but in ERROR, where it is a code of R301 (10_state.md R33). -/
abbrev InvStatus (s : State) : Prop :=
  (s.seq ≠ .error → s.code = 0) ∧ (s.seq = .error → s.code ∈ failureCodes)

/-- While BUSY, `writePos` is at most DST_CAP (10_state.md R43) and RESULT is 0 (R36). -/
abbrev InvBounds (s : State) : Prop :=
  busy s = true → s.writePos.toNat ≤ s.dstCap.toNat ∧ s.result = 0

/-- At a block, `blockIndex` is below `ch.blockCount` (10_state.md R45). -/
abbrev InvBlocks (s : State) : Prop :=
  inBlock s.seq = true → s.blockIndex.toNat < s.ch.blockCount.toNat

/-- A node entry as tree construction leaves it: a leaf without children, or an internal node with the
children its value derives (41_huffman.md R186, R187). -/
def nodeOk (n : Node) : Bool :=
  if n.isLeaf then n.left == none && n.right == none
  else n.left == some (leftChild n.value) && n.right == some (rightChild n.value)

/-- The tree is whole whenever a block is decoded, and whole below `i` while it is built (41_huffman.md R180
to R189); the traversal stands on an entry of the tree (R193). -/
abbrev InvTree (s : State) : Prop :=
  (s.seq = .buildTree → 0 < s.buildIndex.toNat →
    s.treeSize.toNat = 2 * s.ch.huffmanTreeByteLength.toNat ∧ s.buildIndex.toNat ≤ s.treeSize.toNat + 1 ∧
    treeAt s 0 = rootNode ∧ ∀ i, i < s.buildIndex.toNat → nodeOk (treeAt s i) = true) ∧
  (inBlock s.seq = true →
    s.treeSize.toNat = 2 * s.ch.huffmanTreeByteLength.toNat ∧ treeAt s 0 = rootNode ∧
    ∀ i, i < s.treeSize.toNat + 1 → nodeOk (treeAt s i) = true) ∧
  (s.seq = .litSymbol → s.node.toNat ≤ s.treeSize.toNat)

/-- Counts in use are not 0 and fit in 16 bits (10_state.md R47, 42_runlength.md R225). -/
abbrev InvRun (s : State) : Prop :=
  (s.seq = .litSymbol ∨ s.seq = .matchItem ∨ s.seq = .matchCopy →
    0 < s.runRemaining.toNat ∧ s.runRemaining.toNat ≤ 0xFFFF) ∧
  (s.seq = .matchItem → (s.lenRead.getD 0).toNat ≤ 0xFFFF) ∧
  (s.seq = .matchCopy →
    s.lenRead = none ∧ s.matchRemaining.toNat ≤ 0xFFFF ∧ s.matchDistance.toNat ≤ 0xFFFF)

/-- Where the regions lie: no offset register wraps (10_state.md R42, R44). -/
abbrev InvRegion (s : State) : Prop :=
  (s.seq = .buildTree → 0 < s.buildIndex.toNat →
    s.bitBase.toNat = 16 + 2 * s.ch.huffmanTreeByteLength.toNat ∧
    s.bitPosition.toNat + 1 = s.buildIndex.toNat) ∧
  (s.seq = .blockHeader → s.blockStart.toNat ≤ s.srcLen.toNat + 0xFFFF) ∧
  (s.seq = .storedCopy → s.blockStart.toNat + 4 ≤ s.srcLen.toNat) ∧
  (inBitstream s.seq = true →
    s.blockStart.toNat + 24 ≤ s.srcLen.toNat ∧ s.bitBase.toNat = s.blockStart.toNat + 24)

/-! ### Runs -/

/-- Two machines at the same launch (44_container.md R282): the same parameters, SRC_LEN and DST_CAP, the
same source bytes below SRC_LEN and destination bytes below DST_CAP, no decode running, no host action to
come. Everything else may differ. -/
def sameLaunch (s t : State) : Prop :=
  busy s = false ∧ busy t = false ∧ s.pending = [] ∧ t.pending = [] ∧
  s.leafRule = t.leafRule ∧ s.matchFallback = t.matchFallback ∧ s.srcLen = t.srcLen ∧ s.dstCap = t.dstCap ∧
  (∀ a, a < s.srcLen.toNat → s.src.read a = t.src.read a) ∧
  (∀ a, a < s.dstCap.toNat → s.dst.read a = t.dst.read a)

/-- What the host can see of a decode (44_container.md R282): STATUS, RESULT, WRITE_POS, the FAULT registers,
the destination below DST_CAP. -/
def sameView (s t : State) : Prop :=
  statusWord s = statusWord t ∧ s.result = t.result ∧ s.writePosReg = t.writePosReg ∧
  s.faultAddr = t.faultAddr ∧ s.faultBitpos = t.faultBitpos ∧ s.faultBlock = t.faultBlock ∧
  ∀ a, a < s.dstCap.toNat → s.dst.read a = t.dst.read a

/-- A bound on the steps of a decode of `srcLen` source and `dstCap` destination bytes, from the measures of
70_reset_and_hazards.md R371 with one step per traversal bit. -/
def stepBound (srcLen dstCap : Nat) : Nat := 520 + 65535 * (16 * srcLen + 40) + 2 * dstCap

end Sys2Proof.Machine
end

