-- ==== Sys2Proof/Certificates/Slice0/Obligations.lean ====
section
/-! DEFINITION. Certificates/Slice0/Obligations.lean: the statements for the provers. Each is true of every
state its hypotheses admit; a next state is written out in full, which is the instruction's frame: a field
not named is unchanged. The size of a step and the fields `node`, `lenRead`, `buildIndex` and `storedIndex`
are the model's choice (log entry 4), and so is the form of the host's actions (log entry 6). -/

open Sys2Proof Sys2Proof.Machine

/-! ### Fetch, decode, encode -/

/-- While the host's next action is still to come, a step is the engine's own: what it does with no host
action to come, it does here, and the action is one step nearer (00_scope.md R10, 70_reset_and_hazards.md
R368; the list of host actions is the model's choice, log entry 6). With this, a statement that takes
`pending = []` speaks of every step before the host's next action. -/
def Obligations.StepBeforeHostActionIsEngineStep : Prop :=
  ∀ (s : State) (ev : HostEvent) (n : Nat) (rest : List HostEvent),
    s.pending = ev :: rest → ev.after = n + 1 →
    (∀ t, step { s with pending := [] } = .next t →
      step s = .next { t with pending := { ev with after := n } :: rest }) ∧
    (∀ x, step { s with pending := [] } = .fault x → step s = .fault x)

/-- A step where a code word of the bitstream is due. When the stream bits at `bitPosition` are, all `n` of
them, the code word of `i` in the format due, the step consumes them and runs `i` (30_encoding.md R140,
20_memory.md R84). When the code word's reads before the one of `n` bits have consumed `m`, and that read
fails, the step raises its failure with those `m` bits consumed: a width above 16, a position overflow, or a
source overrun at the lowest offset out of range (42_runlength.md R210, 40_bitcursor.md R164 to R166,
60_exceptions.md R313, R314). -/
def Obligations.StepRunsCodeWordOfStream : Prop :=
  ∀ (s : State) (f : Format), s.pending = [] → formatDue s = some f →
    (∀ (n : Nat) (i : Instr), 0 < n → readable s n →
      decode f s.bh (.bits (streamFrom s n)) = .ok (i, []) →
      step s = exec i { s with bitPosition := s.bitPosition + BitVec.ofNat 32 n }) ∧
    (∀ m n : Nat, m = 0 ∨ readable s m → nextRead f s.bh (streamFrom s m) = some n →
      let p := s.bitPosition.toNat + m
      let s' := { s with bitPosition := s.bitPosition + BitVec.ofNat 32 m }
      (16 < n → step s = .next (takeFailure .bitCountTooLarge n s')) ∧
      (0 < n → n ≤ 16 → 2 ^ 32 - 1 < p + n → step s = .next (takeFailure .bitPositionOverflow n s')) ∧
      (0 < n → n ≤ 16 → p + n ≤ 2 ^ 32 - 1 →
        s.srcLen.toNat ≤ s.bitBase.toNat + 2 * ((p + n - 1) / 16) + 1 →
        step s = .next (takeFailure .sourceOverrun (max (s.bitBase.toNat + 2 * (p / 16)) s.srcLen.toNat) s')))

/-- At a block's header the kind is chosen by `compressedLength` alone (30_encoding.md R132). -/
def Obligations.StepRunsBlockKind : Prop :=
  ∀ s : State, s.pending = [] → s.seq = .blockHeader → s.blockStart.toNat + 3 < s.srcLen.toNat →
    let u := le16 (s.src.read s.blockStart.toNat) (s.src.read (s.blockStart.toNat + 1))
    let c := le16 (s.src.read (s.blockStart.toNat + 2)) (s.src.read (s.blockStart.toNat + 3))
    step s = exec (if c = 0 then .blockStored u else .blockCompressed u c)
      { s with bh := { s.bh with uncompressedLength := u, compressedLength := c } }

/-- A host write to CTRL with bit 0 = 1 runs CMD.START with bit 1 as SRC_PRESENT (10_state.md R32). -/
def Obligations.StartWriteRunsStart : Prop :=
  ∀ (s : State) (v : Word) (rest : List HostEvent),
    s.pending = { after := 0, act := .writeReg 0 v } :: rest → v.getLsbD 0 = true →
    step s = exec (.cmdStart (v.getLsbD 1)) { s with pending := rest }

/-- Decoding the code of any well-formed instruction, followed by any more bits, gives the instruction and
those bits: each format is a prefix code and no bit of an operand is dropped (30_encoding.md R147). -/
def Obligations.DecodeEncodeRoundTrip : Prop :=
  ∀ (bh : BlockHeader) (i : Instr) (rest : List Bool), i.wf bh = true →
    decode i.format bh ((encode bh i).followedBy rest) =
      .ok (i, if (codeOfFormat bh i.format).isSome then rest else [])

/-- What a stream of bits decodes to, where it is well formed, encodes to the bits consumed. -/
def Obligations.EncodeDecodeRoundTrip : Prop :=
  ∀ (f : Format) (bh : BlockHeader) (l : List Bool) (i : Instr) (rest : List Bool),
    decode f bh (.bits l) = .ok (i, rest) → i.wf bh = true → ∃ c, encode bh i = .bits c ∧ l = c ++ rest

/-- No LR, MC, OF, HUF or TF pattern is reserved: 19 bits of stream always decode (30_encoding.md R147). -/
def Obligations.EveryBitPatternDecodes : Prop :=
  ∀ (f : Format) (bh : BlockHeader) (l : List Bool), (codeOfFormat bh f).isSome = true → 19 ≤ l.length →
    ∃ i rest, decode f bh (.bits l) = .ok (i, rest) ∧ i.format = f ∧ rest.length < l.length

/-- The block word's mask and match (30_encoding.md R132, R149). -/
def Obligations.BlockWordKindIsItsHighHalf : Prop :=
  ∀ w : Word,
    (w &&& 0xFFFF0000 = 0 → decodeBlockWord w = .blockStored (w.setWidth 16)) ∧
    (w &&& 0xFFFF0000 ≠ 0 → decodeBlockWord w = .blockCompressed (w.setWidth 16) ((w >>> 16).setWidth 16))

/-- One word of each family, written out from 30_encoding.md R141 to R149, decodes to its instruction. -/
def Obligations.SampleWordsDecode : Prop :=
  let bh : BlockHeader := { BlockHeader.zero with
    offsetCodeBitLengths := #v[1, 2, 4, 8], matchLengthCodeBitLengths := #v[3, 4, 5],
    runLengthCodeBitLengths := #v[2, 4, 8] }
  decode .lr bh (.bits [false, true, false, true, false, false, true]) = .ok (.lrExt2 9, []) ∧
  decode .mc bh (.bits [false, true, true, true, false, true]) = .ok (.mcExt1 5, []) ∧
  decode .off bh (.bits [true, false, true, false, true, false]) = .ok (.of2 10, []) ∧
  decode .huf bh (.bits [true]) = .ok (.huf1, []) ∧
  decode .tf bh (.bits [false]) = .ok (.tf0, []) ∧
  decode .block bh (.word 0x00000005) = .ok (.blockStored 5, []) ∧
  decode .block bh (.word 0x001C0008) = .ok (.blockCompressed 8 28, []) ∧
  decode .container bh (.word 0x315F4A59) = .ok (.container, []) ∧
  decode .container bh (.word 0x594A5F31) = .error .badSignature ∧
  decode .hostreg bh (.word 3) = .ok (.cmdStart true, [])

/-! ### The BitCursor -/

/-- `ReadBits(n)` returns the next `n` stream bits, the first the most significant, and moves past them
(40_bitcursor.md R167). -/
def Obligations.ReadBitsReturnsStreamBits : Prop :=
  ∀ (s : State) (n : Nat), 0 < n → n ≤ 16 → readable s n →
    ∃ v : Half, readBits n s = .ok v { s with bitPosition := s.bitPosition + BitVec.ofNat 32 n } ∧
      v.toNat < 2 ^ n ∧ bitsOf n v.toNat = streamFrom s n

/-- A read split in two gives the same bits (40_bitcursor.md R167). -/
def Obligations.SplitReadsAgree : Prop :=
  ∀ (s : State) (n1 n2 : Nat), 0 < n1 → 0 < n2 → n1 + n2 ≤ 16 → readable s (n1 + n2) →
    ∃ (a b v : Half) (s1 s2 : State), readBits n1 s = .ok a s1 ∧ readBits n2 s1 = .ok b s2 ∧
      readBits (n1 + n2) s = .ok v s2 ∧ v = (a <<< n2) ||| b

/-- The checks of ReadBits before any byte is read (40_bitcursor.md R163, R164, R165). -/
def Obligations.ReadBitsChecksCount : Prop :=
  ∀ (s : State) (n : Nat),
    (16 < n → readBits n s = .raised (takeFailure .bitCountTooLarge n s)) ∧
    (n = 0 → readBits n s = .ok 0 s) ∧
    (0 < n → n ≤ 16 → 2 ^ 32 - 1 < s.bitPosition.toNat + n →
      readBits n s = .raised (takeFailure .bitPositionOverflow n s))

/-- A read whose words are not all below SRC_LEN raises at the lowest offset out of range, `bitPosition`
unchanged (40_bitcursor.md R166). -/
def Obligations.ReadBitsOverrunsAtLowestOffset : Prop :=
  ∀ (s : State) (n : Nat), 0 < n → n ≤ 16 → s.bitPosition.toNat + n ≤ 2 ^ 32 - 1 →
    s.srcLen.toNat ≤ s.bitBase.toNat + 2 * ((s.bitPosition.toNat + n - 1) / 16) + 1 →
    readBits n s = .raised (takeFailure .sourceOverrun
      (max (s.bitBase.toNat + 2 * (s.bitPosition.toNat / 16)) s.srcLen.toNat) s)

/-! ### Code words -/

/-- LR code words (LR.BASE0, LR.BASE1, LR.EXT1, LR.EXT2, LR.EXT3, the EXT forms with a legal width) in the
literal phase: the count of R141 is loaded, or 0 ends the block
(42_runlength.md R210 to R215, 43_block.md R232, R251, R252). -/
def Obligations.LiteralRunCountLoads : Prop :=
  ∀ (s : State) (i : Instr) (r : Word), s.seq = .litCount → runValue s i = some r →
    exec i s = .next (
      if r = 0 then
        { s with
          blockStart := s.blockStart + s.bh.compressedLength.setWidth 33, blockIndex := s.blockIndex + 1,
          seq := if s.blockIndex + 1 = s.ch.blockCount then .finish else .blockHeader }
      else { s with runRemaining := r, node := 0, seq := .litSymbol })

/-- The same five LR code words in the match phase: the same codes and tables, the other run (43_block.md R234, R251). -/
def Obligations.MatchRunCountLoads : Prop :=
  ∀ (s : State) (i : Instr) (r : Word), s.seq = .matchCount → runValue s i = some r →
    exec i s = .next (
      if r = 0 then
        { s with
          blockStart := s.blockStart + s.bh.compressedLength.setWidth 33, blockIndex := s.blockIndex + 1,
          seq := if s.blockIndex + 1 = s.ch.blockCount then .finish else .blockHeader }
      else { s with runRemaining := r, lenRead := none, seq := .matchItem })

/-- MC code words (MC.BASE0, MC.FB1, MC.FB2, MC.FB3, MC.EXT1, MC.EXT2, MC.EXT3): the length of R142, both fallbacks (42_runlength.md R216 to R224). -/
def Obligations.MatchLengthLoads : Prop :=
  ∀ (s : State) (i : Instr) (len : Word), s.seq = .matchItem → s.lenRead = none →
    lengthValue s i = some len → exec i s = .next { s with lenRead := some len }

/-- OF code words (OF.0, OF.1, OF.2, OF.3): the match's length and distance are loaded and the copy begins (43_block.md R235 to
R239). -/
def Obligations.MatchOffsetLoads : Prop :=
  ∀ (s : State) (i : Instr) (len dist : Word), s.seq = .matchItem → s.lenRead = some len →
    distanceValue s i = some dist →
    exec i s = .next
      { s with matchRemaining := len, matchDistance := dist, lenRead := none, seq := .matchCopy }

/-- A code word (LR.EXT1 to LR.EXT3, MC.EXT1 to MC.EXT3, OF.0 to OF.3) whose field is wider than 16 bits
raises BitCountTooLarge with the width, its prefix consumed
and its field not (40_bitcursor.md R164, 60_exceptions.md R309). -/
def Obligations.WideFieldRaises : Prop :=
  ∀ (s : State) (i : Instr) (w : Nat), formatDue s = some i.format → i.fieldWidth s.bh = some w → 16 < w →
    exec i s = .next { s with
      writePosReg := s.writePos, faultAddr := BitVec.ofNat 32 w, faultBitpos := s.bitPosition,
      faultBlock := s.blockIndex.setWidth 32, code := 0x14, seq := .error }

/-- HUF.0 and HUF.1 move to the child the node's value derives (41_huffman.md R191, R192). -/
def Obligations.TraversalMovesToChild : Prop :=
  ∀ s : State, s.seq = .litSymbol →
    let e := treeAt s s.node.toNat
    e.isLeaf = false → nodeOk e = true →
    (2 * e.value.toNat + 1 ≤ s.treeSize.toNat →
      exec .huf0 s = .next { s with node := BitVec.ofNat 10 (2 * e.value.toNat + 1) }) ∧
    (2 * e.value.toNat + 2 ≤ s.treeSize.toNat →
      exec .huf1 s = .next { s with node := BitVec.ofNat 10 (2 * e.value.toNat + 2) })

/-- A traversal step past the tree raises TreeIndexOutOfRange with the index (41_huffman.md R193). -/
def Obligations.TraversalPastTreeRaises : Prop :=
  ∀ s : State, s.seq = .litSymbol →
    let e := treeAt s s.node.toNat
    let failed (a : Nat) : State := { s with
      writePosReg := s.writePos, faultAddr := BitVec.ofNat 32 a, faultBitpos := s.bitPosition,
      faultBlock := s.blockIndex.setWidth 32, code := 0x13, seq := .error }
    e.isLeaf = false → nodeOk e = true →
    (s.treeSize.toNat < 2 * e.value.toNat + 1 → exec .huf0 s = .next (failed (2 * e.value.toNat + 1))) ∧
    (s.treeSize.toNat < 2 * e.value.toNat + 2 → exec .huf1 s = .next (failed (2 * e.value.toNat + 2)))

/-- TF.0 and TF.1 build node `i` under every LEAF_RULE (41_huffman.md R182 to R187). -/
def Obligations.FlagBitBuildsNode : Prop :=
  ∀ s : State, formatDue s = some .tf → 15 + s.buildIndex.toNat < s.srcLen.toNat →
    let v := s.src.read (15 + s.buildIndex.toNat)
    let outside : Bool := decide (2 * s.ch.huffmanTreeByteLength.toNat < 2 * v.toNat + 2)
    let built (leaf : Bool) : State := { s with
      tree := s.tree.setIfInBounds s.buildIndex.toNat
        (if leaf then { isLeaf := true, value := v, left := none, right := none }
         else { isLeaf := false, value := v, left := some (BitVec.ofNat 10 (2 * v.toNat + 1)),
                right := some (BitVec.ofNat 10 (2 * v.toNat + 2)) }),
      buildIndex := s.buildIndex + 1 }
    (s.leafRule = .flagClearIsLeaf →
      exec .tf0 s = .next (built true) ∧ exec .tf1 s = .next (built false)) ∧
    (s.leafRule = .flagSetIsLeaf →
      exec .tf0 s = .next (built false) ∧ exec .tf1 s = .next (built true)) ∧
    (s.leafRule = .allInternal →
      exec .tf0 s = .next (built false) ∧ exec .tf1 s = .next (built false)) ∧
    (s.leafRule = .childOutOfRange →
      exec .tf0 s = .next (built outside) ∧ exec .tf1 s = .next (built outside))

/-- A node byte at or past SRC_LEN raises SourceOverrun, its flag bit consumed (41_huffman.md R182). -/
def Obligations.NodeByteOverrunRaises : Prop :=
  ∀ s : State, formatDue s = some .tf → s.srcLen.toNat ≤ 15 + s.buildIndex.toNat →
    ∃ t, exec .tf0 s = .next t ∧ exec .tf1 s = .next t ∧ failedWith t 0x10 (15 + s.buildIndex.toNat) ∧
      t.bitPosition = s.bitPosition ∧ t.tree = s.tree ∧ t.dst = s.dst ∧ t.result = s.result

/-! ### Blocks, container, command -/

/-- BLOCK.STORED begins its copy; only the two lengths of the header are written (43_block.md R253). -/
def Obligations.StoredBlockBegins : Prop :=
  ∀ (s : State) (k : Half), s.seq = .blockHeader →
    exec (.blockStored k) s = .next { s with
      bh := { s.bh with uncompressedLength := k, compressedLength := 0 }, storedIndex := 0, seq := .storedCopy }

/-- BLOCK.COMPRESSED reads the 20 table bytes where 30_encoding.md R131 places them and sets the cursor
(43_block.md R231). -/
def Obligations.CompressedBlockLoadsHeader : Prop :=
  ∀ (s : State) (u c : Half), s.seq = .blockHeader → s.blockStart.toNat + 23 < s.srcLen.toNat →
    let byte (k : Nat) : Byte := s.src.read (s.blockStart.toNat + k)
    exec (.blockCompressed u c) s = .next { s with
      bh := { uncompressedLength := u, compressedLength := c,
              matchLengthBaseTable := #v[le16 (byte 4) (byte 5), le16 (byte 6) (byte 7),
                le16 (byte 8) (byte 9), le16 (byte 10) (byte 11)],
              offsetCodeBitLengths := #v[byte 12, byte 13, byte 14, byte 15],
              matchLengthCodeBitLengths := #v[byte 16, byte 17, byte 18],
              runLengthCodeBitLengths := #v[byte 19, byte 20, byte 21],
              runLengthBaseTable := #v[byte 22, byte 23] },
      bitBase := BitVec.ofNat 32 (s.blockStart.toNat + 24), bitPosition := 0, seq := .litCount }

/-- A block header cut short raises SourceOverrun at its first missing byte: a step where one of the 4 bytes
common to both kinds is missing (also a header wholly past the source), and BLOCK.COMPRESSED where one of
the 20 table bytes is (43_block.md R231, 60_exceptions.md R305). -/
def Obligations.CompressedBlockHeaderOverrun : Prop :=
  ∀ s : State, s.seq = .blockHeader →
    let kept (t : State) : Prop :=
      t.bitPosition = s.bitPosition ∧ t.bitBase = s.bitBase ∧ t.writePos = s.writePos ∧
      t.blockStart = s.blockStart ∧ t.dst = s.dst ∧ t.tree = s.tree ∧ t.result = s.result
    (s.pending = [] → s.srcLen.toNat ≤ s.blockStart.toNat + 3 →
      ∃ t, step s = .next t ∧ failedWith t 0x10 (max s.blockStart.toNat s.srcLen.toNat) ∧ kept t) ∧
    (∀ u c : Half, s.blockStart.toNat + 4 ≤ s.srcLen.toNat → s.srcLen.toNat ≤ s.blockStart.toNat + 23 →
      ∃ t, exec (.blockCompressed u c) s = .next t ∧ failedWith t 0x10 s.srcLen.toNat ∧ kept t)

/-- CONTAINER: the rest of the header is read, the capacity holds, the tree comes next (44_container.md R272,
R274, R275). -/
def Obligations.ContainerHeaderAccepted : Prop :=
  ∀ s : State, s.seq = .validate → s.ch.signature = magic → 16 ≤ s.srcLen.toNat →
    let b : Nat → Byte := s.src.read
    (le32 (b 4) (b 5) (b 6) (b 7)).toNat ≤ s.dstCap.toNat →
    exec .container s = .next { s with
      ch := { signature := magic, uncompressedLength := le32 (b 4) (b 5) (b 6) (b 7),
              compressedLength := le32 (b 8) (b 9) (b 10) (b 11), blockCount := le16 (b 12) (b 13),
              reserved := b 14, huffmanTreeByteLength := b 15 },
      buildIndex := 0, seq := .buildTree }

/-- The checks before the first block, in order, the first that fails being the one reported, the destination
untouched (60_exceptions.md R312). -/
def Obligations.ValidationOrder : Prop :=
  ∀ s : State, s.pending = [] → s.seq = .validate →
    let b : Nat → Byte := s.src.read
    let sig := le32 (b 0) (b 1) (b 2) (b 3)
    let len := le32 (b 4) (b 5) (b 6) (b 7)
    ∃ t, step s = .next t ∧ t.dst = s.dst ∧ t.writePos = s.writePos ∧ t.bitPosition = s.bitPosition ∧
      if s.srcPresent = false then failedWith t 0x01 0
      else if s.srcLen.toNat < 4 then failedWith t 0x10 s.srcLen.toNat
      else if sig ≠ magic then failedWith t 0x02 0
      else if s.srcLen.toNat < 16 then failedWith t 0x10 s.srcLen.toNat
      else if s.dstCap.toNat < len.toNat then failedWith t 0x03 0
      else t.seq = .buildTree ∧ t.ch.signature = magic ∧ t.ch.uncompressedLength = len ∧
        t.ch.compressedLength = le32 (b 8) (b 9) (b 10) (b 11) ∧ t.ch.blockCount = le16 (b 12) (b 13) ∧
        t.ch.reserved = b 14 ∧ t.ch.huffmanTreeByteLength = b 15

/-- CONTAINER on any other signature raises SignatureMismatch before any other work (44_container.md R273). -/
def Obligations.SignatureMismatchRaises : Prop :=
  ∀ s : State, s.seq = .validate → s.ch.signature ≠ 0x315F4A59 →
    exec .container s = .next { s with
      writePosReg := s.writePos, faultAddr := 0, faultBitpos := s.bitPosition,
      faultBlock := s.blockIndex.setWidth 32, code := 0x02, seq := .error }

/-- CMD.START begins a decode; while STATE is BUSY it is ignored in all its bits (44_container.md R270). -/
def Obligations.StartBeginsDecode : Prop :=
  ∀ (s : State) (p : Bool),
    (busy s = false →
      exec (.cmdStart p) s = .next { s with
        srcPresent := p, code := 0, result := 0, writePosReg := 0, faultAddr := 0, faultBitpos := 0,
        faultBlock := 0, writePos := 0, bitPosition := 0, bitBase := 0, blockIndex := 0, runRemaining := 0,
        matchRemaining := 0, matchDistance := 0, seq := .validate }) ∧
    (busy s = true → exec (.cmdStart p) s = .next s)

/-- A START, and every other register write, is ignored while STATE is BUSY (70_reset_and_hazards.md R362,
R363). -/
def Obligations.RegisterWritesIgnoredWhileBusy : Prop :=
  ∀ (s : State) (off v : Word) (rest : List HostEvent), busy s = true →
    s.pending = { after := 0, act := .writeReg off v } :: rest → step s = .next { s with pending := rest }

/-! ### Sequencer steps that read no code word -/

/-- A decoded literal is written at `writePos`, or raises DestOverrun there (43_block.md R233; the
separate step is the model's choice, log entry 4). -/
def Obligations.LiteralIsWritten : Prop :=
  ∀ s : State, s.pending = [] → s.seq = .litSymbol → (treeAt s s.node.toNat).isLeaf = true →
    (s.writePos.toNat < s.dstCap.toNat →
      step s = .next { s with
        dst := s.dst.write s.writePos.toNat (treeAt s s.node.toNat).value, writePos := s.writePos + 1,
        runRemaining := s.runRemaining - 1, node := 0,
        seq := if s.runRemaining - 1 = 0 then .matchCount else .litSymbol }) ∧
    (s.dstCap.toNat ≤ s.writePos.toNat →
      step s = .next (takeFailure .destOverrun s.writePos.toNat s))

/-- MATCH_COPY, one step: the end of the match, its three raises in their order, or one byte read and then
written (43_block.md R245, R247, 60_exceptions.md R314). -/
def Obligations.CopyStep : Prop :=
  ∀ s : State, s.pending = [] → s.seq = .matchCopy →
    step s = .next (
      if s.matchRemaining = 0 then
        { s with runRemaining := s.runRemaining - 1,
                 seq := if s.runRemaining - 1 = 0 then .litCount else .matchItem }
      else if s.writePos.toNat < s.matchDistance.toNat then
        takeFailure .backrefBeforeStart s.matchDistance.toNat s
      else if s.dstCap.toNat ≤ s.writePos.toNat - s.matchDistance.toNat then
        takeFailure .destOverrun (s.writePos.toNat - s.matchDistance.toNat) s
      else if s.dstCap.toNat ≤ s.writePos.toNat then takeFailure .destOverrun s.writePos.toNat s
      else { s with
        dst := s.dst.write s.writePos.toNat (s.dst.read (s.writePos.toNat - s.matchDistance.toNat)),
        writePos := s.writePos + 1, matchRemaining := s.matchRemaining - 1 })

/-- A whole match at distance `d` no less than 1 replicates the `d` bytes before it (43_block.md R248); one
byte a step (log entry 4). -/
def Obligations.MatchReplicatesPeriod : Prop :=
  ∀ s : State, s.pending = [] → s.seq = .matchCopy → 1 ≤ s.matchDistance.toNat →
    s.matchDistance.toNat ≤ s.writePos.toNat →
    s.writePos.toNat + s.matchRemaining.toNat ≤ s.dstCap.toNat →
    ∃ t : State, Host.Core.run Sys2Proof.core s.matchRemaining.toNat s = .next t ∧
      t.writePos.toNat = s.writePos.toNat + s.matchRemaining.toNat ∧ t.matchRemaining = 0 ∧
      t.seq = .matchCopy ∧ t.runRemaining = s.runRemaining ∧ t.bitPosition = s.bitPosition ∧
      (∀ k, k < s.matchRemaining.toNat →
        t.dst.read (s.writePos.toNat + k) =
          s.dst.read (s.writePos.toNat - s.matchDistance.toNat + k % s.matchDistance.toNat)) ∧
      (∀ a, a < s.writePos.toNat ∨ s.writePos.toNat + s.matchRemaining.toNat ≤ a →
        t.dst.read a = s.dst.read a)

/-- A whole match at distance 0 leaves every destination byte as it was and advances `writePos` by its length
(43_block.md R249); one byte a step (log entry 4). -/
def Obligations.ZeroDistanceMatchKeepsBytes : Prop :=
  ∀ s : State, s.pending = [] → s.seq = .matchCopy → s.matchDistance = 0 →
    s.writePos.toNat + s.matchRemaining.toNat ≤ s.dstCap.toNat →
    ∃ t : State, Host.Core.run Sys2Proof.core s.matchRemaining.toNat s = .next t ∧
      t.writePos.toNat = s.writePos.toNat + s.matchRemaining.toNat ∧ t.matchRemaining = 0 ∧
      t.seq = .matchCopy ∧ ∀ a, t.dst.read a = s.dst.read a

/-- A whole stored block copies its bytes verbatim and frames the next block after them (43_block.md R253,
R254, 44_container.md R277); one byte a step, and one for the framing (log entry 4). -/
def Obligations.StoredBlockCopiesVerbatim : Prop :=
  ∀ s : State, s.pending = [] → s.seq = .storedCopy → s.storedIndex = 0 →
    s.blockStart.toNat + 4 + s.bh.uncompressedLength.toNat ≤ s.srcLen.toNat →
    s.writePos.toNat + s.bh.uncompressedLength.toNat ≤ s.dstCap.toNat →
    ∃ t : State, Host.Core.run Sys2Proof.core (s.bh.uncompressedLength.toNat + 1) s = .next t ∧
      t.writePos.toNat = s.writePos.toNat + s.bh.uncompressedLength.toNat ∧
      t.blockStart.toNat = s.blockStart.toNat + 4 + s.bh.uncompressedLength.toNat ∧
      t.blockIndex = s.blockIndex + 1 ∧
      t.seq = (if s.blockIndex + 1 = s.ch.blockCount then .finish else .blockHeader) ∧
      t.bitPosition = s.bitPosition ∧ t.bitBase = s.bitBase ∧ t.bh = s.bh ∧
      (∀ k, k < s.bh.uncompressedLength.toNat →
        t.dst.read (s.writePos.toNat + k) = s.src.read (s.blockStart.toNat + 4 + k)) ∧
      (∀ a, a < s.writePos.toNat ∨ s.writePos.toNat + s.bh.uncompressedLength.toNat ≤ a →
        t.dst.read a = s.dst.read a)

/-- One stored byte, a step of its own (log entry 4): SourceOverrun comes before DestOverrun, and where
neither is raised the byte is written at `writePos` (43_block.md R253, 60_exceptions.md R314). -/
def Obligations.StoredByteFaultOrder : Prop :=
  ∀ s : State, s.pending = [] → s.seq = .storedCopy →
    s.storedIndex.toNat < s.bh.uncompressedLength.toNat →
    (s.srcLen.toNat ≤ s.blockStart.toNat + 4 + s.storedIndex.toNat →
      step s = .next (takeFailure .sourceOverrun (s.blockStart.toNat + 4 + s.storedIndex.toNat) s)) ∧
    (s.blockStart.toNat + 4 + s.storedIndex.toNat < s.srcLen.toNat → s.dstCap.toNat ≤ s.writePos.toNat →
      step s = .next (takeFailure .destOverrun s.writePos.toNat s)) ∧
    (s.blockStart.toNat + 4 + s.storedIndex.toNat < s.srcLen.toNat → s.writePos.toNat < s.dstCap.toNat →
      step s = .next { s with
        dst := s.dst.write s.writePos.toNat (s.src.read (s.blockStart.toNat + 4 + s.storedIndex.toNat)),
        writePos := s.writePos + 1, storedIndex := s.storedIndex + 1 })

/-- BUILD_TREE begins with the root and the flag stream's cursor (41_huffman.md R181, R182 step (1)); a step of
its own is the model's choice (log entry 4). -/
def Obligations.TreeBegins : Prop :=
  ∀ s : State, s.pending = [] → s.seq = .buildTree → s.buildIndex = 0 →
    ∃ t, step s = .next t ∧ t.treeSize.toNat = 2 * s.ch.huffmanTreeByteLength.toNat ∧
      t.bitBase.toNat = 16 + 2 * s.ch.huffmanTreeByteLength.toNat ∧ t.bitPosition = 0 ∧
      treeAt t 0 = { isLeaf := false, value := 0, left := some 1, right := some 2 } ∧
      (∀ i, 0 < i → treeAt t i = treeAt s i) ∧ t.buildIndex = 1 ∧ t.seq = .buildTree ∧
      t.ch = s.ch ∧ t.bh = s.bh ∧ t.dst = s.dst ∧ t.writePos = s.writePos ∧ t.blockIndex = s.blockIndex

/-- BUILD_TREE ends at the first block, or at FINISH when there is none (41_huffman.md R188, 44_container.md
R276); a step of its own is the model's choice (log entry 4). -/
def Obligations.TreeEnds : Prop :=
  ∀ s : State, s.pending = [] → s.seq = .buildTree → s.treeSize.toNat < s.buildIndex.toNat →
    step s = .next { s with
      blockStart := BitVec.ofNat 33 (16 + 2 * s.ch.huffmanTreeByteLength.toNat +
        2 * ((2 * s.ch.huffmanTreeByteLength.toNat + 15) / 16)),
      blockIndex := 0, seq := if s.ch.blockCount = 0 then .finish else .blockHeader }

/-- FINISH reports the declared length and the written count (44_container.md R279). -/
def Obligations.FinishReports : Prop :=
  ∀ s : State, s.pending = [] → s.seq = .finish →
    step s = .next { s with
      result := s.ch.uncompressedLength, writePosReg := s.writePos, code := 0, seq := .done } ∧
    statusWord { s with
      result := s.ch.uncompressedLength, writePosReg := s.writePos, code := 0, seq := .done } = 2

/-- In IDLE, DONE and ERROR the engine performs nothing (60_exceptions.md R320, R337). -/
def Obligations.EngineIdlesWhenNotBusy : Prop :=
  ∀ s : State, s.pending = [] → busy s = false → step s = .next s

/-! ### Failures -/

/-- Failure entry writes the record and STATUS and nothing else (60_exceptions.md R320), with the codes of
R301. -/
def Obligations.FailureEntryRecord : Prop :=
  ∀ (e : Failure) (info : Nat) (s : State),
    takeFailure e info s = { s with
      writePosReg := s.writePos, faultAddr := BitVec.ofNat 32 (info % 2 ^ 32), faultBitpos := s.bitPosition,
      faultBlock := s.blockIndex.setWidth 32,
      code := (match e with
        | .invalidInput => 0x01 | .signatureMismatch => 0x02 | .destinationTooSmall => 0x03
        | .sourceOverrun => 0x10 | .destOverrun => 0x11 | .backrefBeforeStart => 0x12
        | .treeIndexOutOfRange => 0x13 | .bitCountTooLarge => 0x14 | .bitPositionOverflow => 0x15),
      seq := .error }

/-- Every engine step that ends in ERROR leaves the record of 60_exceptions.md R320 but for FAULT_ADDR, with
RESULT and the destination as they were. The value of FAULT_ADDR differs from failure to failure; the
statements of the single failures give it. -/
def Obligations.EveryFailureIsRecorded : Prop :=
  ∀ s t : State, s.pending = [] → busy s = true → step s = .next t → t.seq = .error →
    t.writePosReg = s.writePos ∧ t.writePos = s.writePos ∧ t.faultBitpos = t.bitPosition ∧
    t.faultBlock = s.blockIndex.setWidth 32 ∧ t.result = s.result ∧ t.dst = s.dst ∧
    t.code ∈ failureCodes ∧ (statusWord t).extractLsb' 0 8 = 3

/-- A step faults in no state the invariants admit, and refuses only a host write to a memory while STATE is
BUSY (the model's choice, log entry 8): no decode gets stuck (60_exceptions.md R338). -/
def Obligations.StepNeverStops : Prop :=
  ∀ s : State, InvTree s → ∀ r : Result, step s = r →
    (∃ t, r = .next t) ∨
    (busy s = true ∧ r = .refused .hostMemoryWriteWhileBusy ∧ ∃ ev rest, s.pending = ev :: rest ∧
      ev.after = 0 ∧ ((∃ a v, ev.act = .writeSrc a v) ∨ (∃ a v, ev.act = .writeDst a v)))

/-! ### Reset and the host -/

/-- `State.reset` holds the values of 10_state.md R58; PARAM reads the codes of this hardware's parameters
(R13, R14: both 0). The contents of `ch.*`, `bh.*`, the tree and the memories are the model's choice (log
entries 1 and 2) and are not claimed. -/
def Obligations.ResetStateHoldsSpecValues : Prop :=
  let s := State.reset
  ctrlWord s = 0 ∧ statusWord s = 0 ∧ s.srcLen = 0 ∧ s.dstCap = 0 ∧ s.result = 0 ∧ s.writePosReg = 0 ∧
  s.faultAddr = 0 ∧ s.faultBitpos = 0 ∧ s.faultBlock = 0 ∧ paramWord s = 0 ∧ s.seq = .idle ∧
  s.bitPosition = 0 ∧ s.bitBase = 0 ∧ s.writePos = 0 ∧ s.blockStart = 0 ∧ s.blockIndex = 0 ∧
  s.runRemaining = 0 ∧ s.matchRemaining = 0 ∧ s.matchDistance = 0 ∧ s.treeSize = 0

/-- A reset, also while BUSY, gives every register its reset value, leaves PARAM and both memories, and
records no failure (10_state.md R58, 70_reset_and_hazards.md R350, R351). -/
def Obligations.ResetEventAbandonsDecode : Prop :=
  ∀ (s : State) (rest : List HostEvent), s.pending = { after := 0, act := .reset } :: rest →
    ∃ t, step s = .next t ∧ ctrlWord t = 0 ∧ statusWord t = 0 ∧ t.srcLen = 0 ∧ t.dstCap = 0 ∧
      t.result = 0 ∧ t.writePosReg = 0 ∧ t.faultAddr = 0 ∧ t.faultBitpos = 0 ∧ t.faultBlock = 0 ∧
      paramWord t = paramWord s ∧ t.seq = .idle ∧ t.bitPosition = 0 ∧ t.bitBase = 0 ∧ t.writePos = 0 ∧
      t.blockStart = 0 ∧ t.blockIndex = 0 ∧ t.runRemaining = 0 ∧ t.matchRemaining = 0 ∧
      t.matchDistance = 0 ∧ t.treeSize = 0 ∧ t.src = s.src ∧ t.dst = s.dst ∧ t.pending = rest

/-- What the host reads at each offset (10_state.md R31 to R40, R54): CTRL.START and the reserved bits read
0, and so does an offset not in the table. While STATE is BUSY, STATUS.STATE reads 1 (R33, the poll of
70_reset_and_hazards.md R353); the five registers left out there are those of R360. -/
def Obligations.HostReadsRegisters : Prop :=
  ∀ (s : State) (off : Word) (rest : List HostEvent),
    (busy s = true → off ∉ ([0x10, 0x14, 0x18, 0x1C, 0x20] : List Word)) →
    s.pending = { after := 0, act := .readReg off } :: rest →
    step s = .next { s with
      pending := rest,
      readData :=
        if off = 0x00 then (if s.srcPresent then 2 else 0)
        else if off = 0x04 then
          (s.code.setWidth 32 <<< 8) ||| (match s.seq with | .idle => 0 | .done => 2 | .error => 3 | _ => 1)
        else if off = 0x08 then s.srcLen else if off = 0x0C then s.dstCap
        else if off = 0x10 then s.result else if off = 0x14 then s.writePosReg
        else if off = 0x18 then s.faultAddr else if off = 0x1C then s.faultBitpos
        else if off = 0x20 then s.faultBlock
        else if off = 0x24 then
          (match s.matchFallback with | .base0 => 0 | .selector => 4) |||
          (match s.leafRule with
            | .flagClearIsLeaf => 0 | .flagSetIsLeaf => 1 | .allInternal => 2 | .childOutOfRange => 3)
        else 0 }

/-- What a host write does while no decode runs, CTRL's START bit 0: CTRL keeps SRC_PRESENT, SRC_LEN and
DST_CAP take the value, every other offset ignores it (10_state.md R31 to R35). -/
def Obligations.HostWritesRegisters : Prop :=
  ∀ (s : State) (off v : Word) (rest : List HostEvent), busy s = false →
    s.pending = { after := 0, act := .writeReg off v } :: rest →
    (off = 0x00 → v.getLsbD 0 = false → step s = .next { s with pending := rest, srcPresent := v.getLsbD 1 }) ∧
    (off = 0x08 → step s = .next { s with pending := rest, srcLen := v }) ∧
    (off = 0x0C → step s = .next { s with pending := rest, dstCap := v }) ∧
    (off ≠ 0x00 → off ≠ 0x08 → off ≠ 0x0C → step s = .next { s with pending := rest })

/-- The host loads the memories while no decode runs, and reads the destination then (70_reset_and_hazards.md
R353, 20_memory.md R97); it reads the source at any time, which no decode writes (R100). While a decode runs
R361 forbids the write, and that the model refuses the schedule is its choice (log entry 8, S2). -/
def Obligations.HostLoadsMemories : Prop :=
  ∀ (s : State) (a : Word) (v : Byte) (rest : List HostEvent),
    (s.pending = { after := 0, act := .writeSrc a v } :: rest →
      (busy s = false → step s = .next { s with pending := rest, src := s.src.write a.toNat v }) ∧
      (busy s = true → step s = .refused .hostMemoryWriteWhileBusy)) ∧
    (s.pending = { after := 0, act := .writeDst a v } :: rest →
      (busy s = false → step s = .next { s with pending := rest, dst := s.dst.write a.toNat v }) ∧
      (busy s = true → step s = .refused .hostMemoryWriteWhileBusy)) ∧
    (s.pending = { after := 0, act := .readSrc a } :: rest →
      step s = .next { s with pending := rest, readData := (s.src.read a.toNat).setWidth 32 }) ∧
    (s.pending = { after := 0, act := .readDst a } :: rest → busy s = false →
      step s = .next { s with pending := rest, readData := (s.dst.read a.toNat).setWidth 32 })

/-- While STATE is BUSY a host read of RESULT, WRITE_POS, a FAULT register or a destination byte answers some
value and changes nothing of the core (10_state.md R36, R37, 70_reset_and_hazards.md R360); which value is the
free value of log entry 7. -/
def Obligations.HostReadsOpenValueWhileBusy : Prop :=
  ∀ (s : State) (act : HostAct) (rest : List HostEvent), busy s = true →
    s.pending = { after := 0, act := act } :: rest →
    (act = .readReg 0x10 ∨ act = .readReg 0x14 ∨ act = .readReg 0x18 ∨ act = .readReg 0x1C ∨
      act = .readReg 0x20 ∨ ∃ a, act = .readDst a) →
    ∃ v, step s = .next { s with pending := rest, readData := v, freeCount := s.freeCount + 1 }

/-! ### The whole machine -/

/-- The invariants hold at reset. The first, that both memories are in canonical form, is no rule of the spec:
the form, and that nothing is listed at reset, are the model's choice (log entry 2). -/
def Obligations.ResetMeetsInvariants : Prop :=
  InvMem State.reset ∧ InvStatus State.reset ∧ InvBounds State.reset ∧ InvBlocks State.reset ∧
  InvTree State.reset ∧ InvRun State.reset ∧ InvRegion State.reset

/-- Every step keeps both memories in canonical form. The form is no rule of the spec: it is the model's own
way to hold a memory, with the value an unlisted byte reads as (log entry 2). -/
def Obligations.StepKeepsMemoryCanonical : Prop :=
  ∀ s t : State, InvMem s → step s = .next t → InvMem t

/-- Every step keeps STATUS.CODE as 10_state.md R33 has it. -/
def Obligations.StepKeepsStatusCode : Prop :=
  ∀ s t : State, InvStatus s → step s = .next t → InvStatus t

/-- Every step keeps `writePos` within DST_CAP and RESULT 0 while BUSY (10_state.md R36, R43). -/
def Obligations.StepKeepsWriteBounds : Prop :=
  ∀ s t : State, InvBounds s → step s = .next t → InvBounds t

/-- Every step keeps the tree whole, `blockIndex` below `ch.blockCount`, and the traversal inside the tree
(41_huffman.md R189, 44_container.md R277). -/
def Obligations.StepKeepsTreeAndBlocks : Prop :=
  ∀ s t : State, InvTree s → InvBlocks s → step s = .next t → InvTree t ∧ InvBlocks t

/-- Every step keeps the counts in use within 16 bits and not 0 (42_runlength.md R225). -/
def Obligations.StepKeepsCounts : Prop :=
  ∀ s t : State, InvRun s → step s = .next t → InvRun t

/-- Every step keeps the regions where they lie: `bitBase` and `blockStart` never wrap (10_state.md R42,
R44). -/
def Obligations.StepKeepsRegions : Prop :=
  ∀ s t : State, InvRegion s → step s = .next t → InvRegion t

/-- No engine step writes the source, the launch inputs or the parameters (20_memory.md R80, R100,
10_state.md R54), and outside BUILD_TREE none writes the tree (41_huffman.md R189). -/
def Obligations.EngineKeepsInputs : Prop :=
  ∀ s t : State, s.pending = [] → step s = .next t →
    t.src = s.src ∧ t.srcLen = s.srcLen ∧ t.dstCap = s.dstCap ∧ t.srcPresent = s.srcPresent ∧
    t.leafRule = s.leafRule ∧ t.matchFallback = s.matchFallback ∧
    (s.seq ≠ .buildTree → t.tree = s.tree ∧ t.treeSize = s.treeSize)

/-- The destination is written only at `writePos`, below DST_CAP, one byte a step, and `writePos` then moves
by one (10_state.md R43, 20_memory.md R92). -/
def Obligations.OutputIsSequential : Prop :=
  ∀ s t : State, s.pending = [] → step s = .next t →
    (t.writePos = s.writePos ∧ t.dst = s.dst) ∨
    (s.writePos.toNat < s.dstCap.toNat ∧ t.writePos.toNat = s.writePos.toNat + 1 ∧
      (s.seq = .litSymbol ∨ s.seq = .storedCopy ∨ s.seq = .matchCopy) ∧
      ∀ a, a ≠ s.writePos.toNat → t.dst.read a = s.dst.read a)

/-- Two decodes from the same launch show the host the same at every step, whatever else the two cores held:
determinism (44_container.md R282), and no value of an earlier decode is read (R283). -/
def Obligations.DecodeDependsOnLaunchOnly : Prop :=
  ∀ (s t : State) (p : Bool) (n : Nat), sameLaunch s t →
    ∃ s' t' : State, Host.Core.run Sys2Proof.core n (startDecode p s) = .next s' ∧
      Host.Core.run Sys2Proof.core n (startDecode p t) = .next t' ∧ sameView s' t'

/-- Every decode ends in DONE or ERROR within `stepBound` steps of its START, whatever the source
(60_exceptions.md R338, 70_reset_and_hazards.md R371). What counts as one step, and so the bound, is the
model's choice (log entry 4). -/
def Obligations.EveryDecodeEnds : Prop :=
  ∀ (s : State) (p : Bool), s.pending = [] →
    ∃ (n : Nat) (t : State), n ≤ stepBound s.srcLen.toNat s.dstCap.toNat ∧
      Host.Core.run Sys2Proof.core n (startDecode p s) = .next t ∧ (t.seq = .done ∨ t.seq = .error)
end

