-- ==== Sys2Proof/Laws/Decode.lean ====
section
/-! SUPPORT. Laws/Decode.lean: the small laws of bit sequences that the decoder and the encoder share. -/

namespace Sys2Proof

@[simp] theorem length_bitsOf (k v : Nat) : (bitsOf k v).length = k := by
  induction k with
  | zero => rfl
  | succ k ih => simp [bitsOf, ih]

/-- Taking back the bits a value was laid out in gives its low bits. -/
theorem takeBits_bitsOf_append (k v : Nat) (rest : List Bool) :
    takeBits k (bitsOf k v ++ rest) = some (v % 2 ^ k, rest) := by
  induction k with
  | zero => simp [takeBits, bitsOf, Nat.mod_one]
  | succ k ih =>
    simp only [bitsOf, List.cons_append, takeBits, ih, Option.map_some, Option.some.injEq, Prod.mk.injEq,
      and_true]
    have h : (v.testBit k).toNat = v / 2 ^ k % 2 := Nat.toNat_testBit v k
    rw [h, Nat.pow_succ, Nat.mod_mul]
    ring

/-- A stream has its first `n` bits exactly when it is long enough. -/
theorem takeBits_isSome (n : Nat) (l : List Bool) : (takeBits n l).isSome = decide (n ≤ l.length) := by
  induction n generalizing l with
  | zero => simp [takeBits]
  | succ n ih =>
    cases l with
    | nil => simp [takeBits]
    | cons b l => simp [takeBits, ih]

/-- What `takeBits` answers: a value below `2 ^ n`, laid out by the bits it took. -/
theorem takeBits_some {n : Nat} {l : List Bool} {v : Nat} {rest : List Bool} (h : takeBits n l = some (v, rest)) :
    v < 2 ^ n ∧ l = bitsOf n v ++ rest := by
  induction n generalizing l v rest with
  | zero =>
    simp only [takeBits, Option.some.injEq, Prod.mk.injEq] at h
    obtain ⟨rfl, rfl⟩ := h
    simp [bitsOf]
  | succ n ih =>
    cases l with
    | nil => simp [takeBits] at h
    | cons b l =>
      simp only [takeBits, Option.map_eq_some_iff, Prod.exists, Prod.mk.injEq] at h
      obtain ⟨w, r, hw, rfl, rfl⟩ := h
      obtain ⟨hlt, rfl⟩ := ih hw
      have hb : (b.toNat * 2 ^ n + w).testBit n = b := by
        cases b
        · simpa using Nat.testBit_lt_two_pow hlt
        · rw [Bool.toNat_true, one_mul, Nat.testBit_two_pow_add_eq, Nat.testBit_lt_two_pow hlt]
          rfl
      have low : ∀ k ≤ n, bitsOf k (b.toNat * 2 ^ n + w) = bitsOf k w := by
        intro k hk
        induction k with
        | zero => rfl
        | succ k ihk =>
          simp only [bitsOf, ihk (by omega)]
          congr 1
          have hmod : (b.toNat * 2 ^ n + w) % 2 ^ n = w % 2 ^ n := by simp [Nat.add_mod]
          have hbit : ∀ x, (x % 2 ^ n).testBit k = x.testBit k := fun x => by
            rw [Nat.testBit_mod_two_pow, decide_eq_true (by omega : k < n), Bool.true_and]
          rw [← hbit, hmod, hbit]
      refine ⟨?_, ?_⟩
      · have : b.toNat ≤ 1 := Bool.toNat_le b
        rw [Nat.pow_succ]
        nlinarith [Nat.two_pow_pos n]
      · rw [bitsOf, hb, low n le_rfl, List.cons_append]

end Sys2Proof
end

