-- ==== Sys2Proof/Laws/State.lean ====
section
/-! SUPPORT. Laws/State.lean: what each named update of the state does to each field, by rfl, so that no
later proof unfolds a record update. -/

namespace Sys2Proof.Machine

/-! ### takeFailure -/

@[simp] theorem takeFailure_srcPresent (e : Failure) (info : Nat) (s : State) : (takeFailure e info s).srcPresent = s.srcPresent := rfl
@[simp] theorem takeFailure_code (e : Failure) (info : Nat) (s : State) : (takeFailure e info s).code = failureCode e := rfl
@[simp] theorem takeFailure_srcLen (e : Failure) (info : Nat) (s : State) : (takeFailure e info s).srcLen = s.srcLen := rfl
@[simp] theorem takeFailure_dstCap (e : Failure) (info : Nat) (s : State) : (takeFailure e info s).dstCap = s.dstCap := rfl
@[simp] theorem takeFailure_result (e : Failure) (info : Nat) (s : State) : (takeFailure e info s).result = s.result := rfl
@[simp] theorem takeFailure_writePosReg (e : Failure) (info : Nat) (s : State) : (takeFailure e info s).writePosReg = s.writePos := rfl
@[simp] theorem takeFailure_faultAddr (e : Failure) (info : Nat) (s : State) : (takeFailure e info s).faultAddr = BitVec.ofNat 32 info := rfl
@[simp] theorem takeFailure_faultBitpos (e : Failure) (info : Nat) (s : State) : (takeFailure e info s).faultBitpos = s.bitPosition := rfl
@[simp] theorem takeFailure_faultBlock (e : Failure) (info : Nat) (s : State) : (takeFailure e info s).faultBlock = s.blockIndex.setWidth 32 := rfl
@[simp] theorem takeFailure_leafRule (e : Failure) (info : Nat) (s : State) : (takeFailure e info s).leafRule = s.leafRule := rfl
@[simp] theorem takeFailure_matchFallback (e : Failure) (info : Nat) (s : State) : (takeFailure e info s).matchFallback = s.matchFallback := rfl
@[simp] theorem takeFailure_bitPosition (e : Failure) (info : Nat) (s : State) : (takeFailure e info s).bitPosition = s.bitPosition := rfl
@[simp] theorem takeFailure_bitBase (e : Failure) (info : Nat) (s : State) : (takeFailure e info s).bitBase = s.bitBase := rfl
@[simp] theorem takeFailure_writePos (e : Failure) (info : Nat) (s : State) : (takeFailure e info s).writePos = s.writePos := rfl
@[simp] theorem takeFailure_blockStart (e : Failure) (info : Nat) (s : State) : (takeFailure e info s).blockStart = s.blockStart := rfl
@[simp] theorem takeFailure_blockIndex (e : Failure) (info : Nat) (s : State) : (takeFailure e info s).blockIndex = s.blockIndex := rfl
@[simp] theorem takeFailure_seq (e : Failure) (info : Nat) (s : State) : (takeFailure e info s).seq = .error := rfl
@[simp] theorem takeFailure_runRemaining (e : Failure) (info : Nat) (s : State) : (takeFailure e info s).runRemaining = s.runRemaining := rfl
@[simp] theorem takeFailure_matchRemaining (e : Failure) (info : Nat) (s : State) : (takeFailure e info s).matchRemaining = s.matchRemaining := rfl
@[simp] theorem takeFailure_matchDistance (e : Failure) (info : Nat) (s : State) : (takeFailure e info s).matchDistance = s.matchDistance := rfl
@[simp] theorem takeFailure_ch (e : Failure) (info : Nat) (s : State) : (takeFailure e info s).ch = s.ch := rfl
@[simp] theorem takeFailure_bh (e : Failure) (info : Nat) (s : State) : (takeFailure e info s).bh = s.bh := rfl
@[simp] theorem takeFailure_tree (e : Failure) (info : Nat) (s : State) : (takeFailure e info s).tree = s.tree := rfl
@[simp] theorem takeFailure_treeSize (e : Failure) (info : Nat) (s : State) : (takeFailure e info s).treeSize = s.treeSize := rfl
@[simp] theorem takeFailure_src (e : Failure) (info : Nat) (s : State) : (takeFailure e info s).src = s.src := rfl
@[simp] theorem takeFailure_dst (e : Failure) (info : Nat) (s : State) : (takeFailure e info s).dst = s.dst := rfl
@[simp] theorem takeFailure_node (e : Failure) (info : Nat) (s : State) : (takeFailure e info s).node = s.node := rfl
@[simp] theorem takeFailure_lenRead (e : Failure) (info : Nat) (s : State) : (takeFailure e info s).lenRead = s.lenRead := rfl
@[simp] theorem takeFailure_buildIndex (e : Failure) (info : Nat) (s : State) : (takeFailure e info s).buildIndex = s.buildIndex := rfl
@[simp] theorem takeFailure_storedIndex (e : Failure) (info : Nat) (s : State) : (takeFailure e info s).storedIndex = s.storedIndex := rfl
@[simp] theorem takeFailure_pending (e : Failure) (info : Nat) (s : State) : (takeFailure e info s).pending = s.pending := rfl
@[simp] theorem takeFailure_readData (e : Failure) (info : Nat) (s : State) : (takeFailure e info s).readData = s.readData := rfl
@[simp] theorem takeFailure_freeCount (e : Failure) (info : Nat) (s : State) : (takeFailure e info s).freeCount = s.freeCount := rfl

/-! ### startDecode -/

@[simp] theorem startDecode_srcPresent (p : Bool) (s : State) : (startDecode p s).srcPresent = p := rfl
@[simp] theorem startDecode_code (p : Bool) (s : State) : (startDecode p s).code = 0 := rfl
@[simp] theorem startDecode_srcLen (p : Bool) (s : State) : (startDecode p s).srcLen = s.srcLen := rfl
@[simp] theorem startDecode_dstCap (p : Bool) (s : State) : (startDecode p s).dstCap = s.dstCap := rfl
@[simp] theorem startDecode_result (p : Bool) (s : State) : (startDecode p s).result = 0 := rfl
@[simp] theorem startDecode_writePosReg (p : Bool) (s : State) : (startDecode p s).writePosReg = 0 := rfl
@[simp] theorem startDecode_faultAddr (p : Bool) (s : State) : (startDecode p s).faultAddr = 0 := rfl
@[simp] theorem startDecode_faultBitpos (p : Bool) (s : State) : (startDecode p s).faultBitpos = 0 := rfl
@[simp] theorem startDecode_faultBlock (p : Bool) (s : State) : (startDecode p s).faultBlock = 0 := rfl
@[simp] theorem startDecode_leafRule (p : Bool) (s : State) : (startDecode p s).leafRule = s.leafRule := rfl
@[simp] theorem startDecode_matchFallback (p : Bool) (s : State) : (startDecode p s).matchFallback = s.matchFallback := rfl
@[simp] theorem startDecode_bitPosition (p : Bool) (s : State) : (startDecode p s).bitPosition = 0 := rfl
@[simp] theorem startDecode_bitBase (p : Bool) (s : State) : (startDecode p s).bitBase = 0 := rfl
@[simp] theorem startDecode_writePos (p : Bool) (s : State) : (startDecode p s).writePos = 0 := rfl
@[simp] theorem startDecode_blockStart (p : Bool) (s : State) : (startDecode p s).blockStart = s.blockStart := rfl
@[simp] theorem startDecode_blockIndex (p : Bool) (s : State) : (startDecode p s).blockIndex = 0 := rfl
@[simp] theorem startDecode_seq (p : Bool) (s : State) : (startDecode p s).seq = .validate := rfl
@[simp] theorem startDecode_runRemaining (p : Bool) (s : State) : (startDecode p s).runRemaining = 0 := rfl
@[simp] theorem startDecode_matchRemaining (p : Bool) (s : State) : (startDecode p s).matchRemaining = 0 := rfl
@[simp] theorem startDecode_matchDistance (p : Bool) (s : State) : (startDecode p s).matchDistance = 0 := rfl
@[simp] theorem startDecode_ch (p : Bool) (s : State) : (startDecode p s).ch = s.ch := rfl
@[simp] theorem startDecode_bh (p : Bool) (s : State) : (startDecode p s).bh = s.bh := rfl
@[simp] theorem startDecode_tree (p : Bool) (s : State) : (startDecode p s).tree = s.tree := rfl
@[simp] theorem startDecode_treeSize (p : Bool) (s : State) : (startDecode p s).treeSize = s.treeSize := rfl
@[simp] theorem startDecode_src (p : Bool) (s : State) : (startDecode p s).src = s.src := rfl
@[simp] theorem startDecode_dst (p : Bool) (s : State) : (startDecode p s).dst = s.dst := rfl
@[simp] theorem startDecode_node (p : Bool) (s : State) : (startDecode p s).node = s.node := rfl
@[simp] theorem startDecode_lenRead (p : Bool) (s : State) : (startDecode p s).lenRead = s.lenRead := rfl
@[simp] theorem startDecode_buildIndex (p : Bool) (s : State) : (startDecode p s).buildIndex = s.buildIndex := rfl
@[simp] theorem startDecode_storedIndex (p : Bool) (s : State) : (startDecode p s).storedIndex = s.storedIndex := rfl
@[simp] theorem startDecode_pending (p : Bool) (s : State) : (startDecode p s).pending = s.pending := rfl
@[simp] theorem startDecode_readData (p : Bool) (s : State) : (startDecode p s).readData = s.readData := rfl
@[simp] theorem startDecode_freeCount (p : Bool) (s : State) : (startDecode p s).freeCount = s.freeCount := rfl

/-! ### advance -/

@[simp] theorem advance_srcPresent (n : Nat) (s : State) : (advance n s).srcPresent = s.srcPresent := rfl
@[simp] theorem advance_code (n : Nat) (s : State) : (advance n s).code = s.code := rfl
@[simp] theorem advance_srcLen (n : Nat) (s : State) : (advance n s).srcLen = s.srcLen := rfl
@[simp] theorem advance_dstCap (n : Nat) (s : State) : (advance n s).dstCap = s.dstCap := rfl
@[simp] theorem advance_result (n : Nat) (s : State) : (advance n s).result = s.result := rfl
@[simp] theorem advance_writePosReg (n : Nat) (s : State) : (advance n s).writePosReg = s.writePosReg := rfl
@[simp] theorem advance_faultAddr (n : Nat) (s : State) : (advance n s).faultAddr = s.faultAddr := rfl
@[simp] theorem advance_faultBitpos (n : Nat) (s : State) : (advance n s).faultBitpos = s.faultBitpos := rfl
@[simp] theorem advance_faultBlock (n : Nat) (s : State) : (advance n s).faultBlock = s.faultBlock := rfl
@[simp] theorem advance_leafRule (n : Nat) (s : State) : (advance n s).leafRule = s.leafRule := rfl
@[simp] theorem advance_matchFallback (n : Nat) (s : State) : (advance n s).matchFallback = s.matchFallback := rfl
@[simp] theorem advance_bitPosition (n : Nat) (s : State) : (advance n s).bitPosition = s.bitPosition + BitVec.ofNat 32 n := rfl
@[simp] theorem advance_bitBase (n : Nat) (s : State) : (advance n s).bitBase = s.bitBase := rfl
@[simp] theorem advance_writePos (n : Nat) (s : State) : (advance n s).writePos = s.writePos := rfl
@[simp] theorem advance_blockStart (n : Nat) (s : State) : (advance n s).blockStart = s.blockStart := rfl
@[simp] theorem advance_blockIndex (n : Nat) (s : State) : (advance n s).blockIndex = s.blockIndex := rfl
@[simp] theorem advance_seq (n : Nat) (s : State) : (advance n s).seq = s.seq := rfl
@[simp] theorem advance_runRemaining (n : Nat) (s : State) : (advance n s).runRemaining = s.runRemaining := rfl
@[simp] theorem advance_matchRemaining (n : Nat) (s : State) : (advance n s).matchRemaining = s.matchRemaining := rfl
@[simp] theorem advance_matchDistance (n : Nat) (s : State) : (advance n s).matchDistance = s.matchDistance := rfl
@[simp] theorem advance_ch (n : Nat) (s : State) : (advance n s).ch = s.ch := rfl
@[simp] theorem advance_bh (n : Nat) (s : State) : (advance n s).bh = s.bh := rfl
@[simp] theorem advance_tree (n : Nat) (s : State) : (advance n s).tree = s.tree := rfl
@[simp] theorem advance_treeSize (n : Nat) (s : State) : (advance n s).treeSize = s.treeSize := rfl
@[simp] theorem advance_src (n : Nat) (s : State) : (advance n s).src = s.src := rfl
@[simp] theorem advance_dst (n : Nat) (s : State) : (advance n s).dst = s.dst := rfl
@[simp] theorem advance_node (n : Nat) (s : State) : (advance n s).node = s.node := rfl
@[simp] theorem advance_lenRead (n : Nat) (s : State) : (advance n s).lenRead = s.lenRead := rfl
@[simp] theorem advance_buildIndex (n : Nat) (s : State) : (advance n s).buildIndex = s.buildIndex := rfl
@[simp] theorem advance_storedIndex (n : Nat) (s : State) : (advance n s).storedIndex = s.storedIndex := rfl
@[simp] theorem advance_pending (n : Nat) (s : State) : (advance n s).pending = s.pending := rfl
@[simp] theorem advance_readData (n : Nat) (s : State) : (advance n s).readData = s.readData := rfl
@[simp] theorem advance_freeCount (n : Nat) (s : State) : (advance n s).freeCount = s.freeCount := rfl

/-! ### setTree -/

@[simp] theorem setTree_srcPresent (i : Nat) (n : Node) (s : State) : (setTree i n s).srcPresent = s.srcPresent := rfl
@[simp] theorem setTree_code (i : Nat) (n : Node) (s : State) : (setTree i n s).code = s.code := rfl
@[simp] theorem setTree_srcLen (i : Nat) (n : Node) (s : State) : (setTree i n s).srcLen = s.srcLen := rfl
@[simp] theorem setTree_dstCap (i : Nat) (n : Node) (s : State) : (setTree i n s).dstCap = s.dstCap := rfl
@[simp] theorem setTree_result (i : Nat) (n : Node) (s : State) : (setTree i n s).result = s.result := rfl
@[simp] theorem setTree_writePosReg (i : Nat) (n : Node) (s : State) : (setTree i n s).writePosReg = s.writePosReg := rfl
@[simp] theorem setTree_faultAddr (i : Nat) (n : Node) (s : State) : (setTree i n s).faultAddr = s.faultAddr := rfl
@[simp] theorem setTree_faultBitpos (i : Nat) (n : Node) (s : State) : (setTree i n s).faultBitpos = s.faultBitpos := rfl
@[simp] theorem setTree_faultBlock (i : Nat) (n : Node) (s : State) : (setTree i n s).faultBlock = s.faultBlock := rfl
@[simp] theorem setTree_leafRule (i : Nat) (n : Node) (s : State) : (setTree i n s).leafRule = s.leafRule := rfl
@[simp] theorem setTree_matchFallback (i : Nat) (n : Node) (s : State) : (setTree i n s).matchFallback = s.matchFallback := rfl
@[simp] theorem setTree_bitPosition (i : Nat) (n : Node) (s : State) : (setTree i n s).bitPosition = s.bitPosition := rfl
@[simp] theorem setTree_bitBase (i : Nat) (n : Node) (s : State) : (setTree i n s).bitBase = s.bitBase := rfl
@[simp] theorem setTree_writePos (i : Nat) (n : Node) (s : State) : (setTree i n s).writePos = s.writePos := rfl
@[simp] theorem setTree_blockStart (i : Nat) (n : Node) (s : State) : (setTree i n s).blockStart = s.blockStart := rfl
@[simp] theorem setTree_blockIndex (i : Nat) (n : Node) (s : State) : (setTree i n s).blockIndex = s.blockIndex := rfl
@[simp] theorem setTree_seq (i : Nat) (n : Node) (s : State) : (setTree i n s).seq = s.seq := rfl
@[simp] theorem setTree_runRemaining (i : Nat) (n : Node) (s : State) : (setTree i n s).runRemaining = s.runRemaining := rfl
@[simp] theorem setTree_matchRemaining (i : Nat) (n : Node) (s : State) : (setTree i n s).matchRemaining = s.matchRemaining := rfl
@[simp] theorem setTree_matchDistance (i : Nat) (n : Node) (s : State) : (setTree i n s).matchDistance = s.matchDistance := rfl
@[simp] theorem setTree_ch (i : Nat) (n : Node) (s : State) : (setTree i n s).ch = s.ch := rfl
@[simp] theorem setTree_bh (i : Nat) (n : Node) (s : State) : (setTree i n s).bh = s.bh := rfl
@[simp] theorem setTree_tree (i : Nat) (n : Node) (s : State) :
    (setTree i n s).tree = s.tree.setIfInBounds i n := by
  unfold setTree
  apply Vector.ext
  intro k hk
  by_cases h : i < 511
  · simp only [h, ↓reduceDIte, Vector.getElem_set, Vector.getElem_setIfInBounds]
  · simp only [h, ↓reduceDIte, Vector.getElem_setIfInBounds]
    rw [if_neg (by omega)]
@[simp] theorem setTree_treeSize (i : Nat) (n : Node) (s : State) : (setTree i n s).treeSize = s.treeSize := rfl
@[simp] theorem setTree_src (i : Nat) (n : Node) (s : State) : (setTree i n s).src = s.src := rfl
@[simp] theorem setTree_dst (i : Nat) (n : Node) (s : State) : (setTree i n s).dst = s.dst := rfl
@[simp] theorem setTree_node (i : Nat) (n : Node) (s : State) : (setTree i n s).node = s.node := rfl
@[simp] theorem setTree_lenRead (i : Nat) (n : Node) (s : State) : (setTree i n s).lenRead = s.lenRead := rfl
@[simp] theorem setTree_buildIndex (i : Nat) (n : Node) (s : State) : (setTree i n s).buildIndex = s.buildIndex := rfl
@[simp] theorem setTree_storedIndex (i : Nat) (n : Node) (s : State) : (setTree i n s).storedIndex = s.storedIndex := rfl
@[simp] theorem setTree_pending (i : Nat) (n : Node) (s : State) : (setTree i n s).pending = s.pending := rfl
@[simp] theorem setTree_readData (i : Nat) (n : Node) (s : State) : (setTree i n s).readData = s.readData := rfl
@[simp] theorem setTree_freeCount (i : Nat) (n : Node) (s : State) : (setTree i n s).freeCount = s.freeCount := rfl

/-! ### nextBlock -/

@[simp] theorem nextBlock_srcPresent (s : State) : (nextBlock s).srcPresent = s.srcPresent := rfl
@[simp] theorem nextBlock_code (s : State) : (nextBlock s).code = s.code := rfl
@[simp] theorem nextBlock_srcLen (s : State) : (nextBlock s).srcLen = s.srcLen := rfl
@[simp] theorem nextBlock_dstCap (s : State) : (nextBlock s).dstCap = s.dstCap := rfl
@[simp] theorem nextBlock_result (s : State) : (nextBlock s).result = s.result := rfl
@[simp] theorem nextBlock_writePosReg (s : State) : (nextBlock s).writePosReg = s.writePosReg := rfl
@[simp] theorem nextBlock_faultAddr (s : State) : (nextBlock s).faultAddr = s.faultAddr := rfl
@[simp] theorem nextBlock_faultBitpos (s : State) : (nextBlock s).faultBitpos = s.faultBitpos := rfl
@[simp] theorem nextBlock_faultBlock (s : State) : (nextBlock s).faultBlock = s.faultBlock := rfl
@[simp] theorem nextBlock_leafRule (s : State) : (nextBlock s).leafRule = s.leafRule := rfl
@[simp] theorem nextBlock_matchFallback (s : State) : (nextBlock s).matchFallback = s.matchFallback := rfl
@[simp] theorem nextBlock_bitPosition (s : State) : (nextBlock s).bitPosition = s.bitPosition := rfl
@[simp] theorem nextBlock_bitBase (s : State) : (nextBlock s).bitBase = s.bitBase := rfl
@[simp] theorem nextBlock_writePos (s : State) : (nextBlock s).writePos = s.writePos := rfl
@[simp] theorem nextBlock_blockStart (s : State) : (nextBlock s).blockStart = s.blockStart := rfl
@[simp] theorem nextBlock_blockIndex (s : State) : (nextBlock s).blockIndex = s.blockIndex + 1 := rfl
@[simp] theorem nextBlock_seq (s : State) : (nextBlock s).seq = if s.blockIndex + 1 = s.ch.blockCount then .finish else .blockHeader := rfl
@[simp] theorem nextBlock_runRemaining (s : State) : (nextBlock s).runRemaining = s.runRemaining := rfl
@[simp] theorem nextBlock_matchRemaining (s : State) : (nextBlock s).matchRemaining = s.matchRemaining := rfl
@[simp] theorem nextBlock_matchDistance (s : State) : (nextBlock s).matchDistance = s.matchDistance := rfl
@[simp] theorem nextBlock_ch (s : State) : (nextBlock s).ch = s.ch := rfl
@[simp] theorem nextBlock_bh (s : State) : (nextBlock s).bh = s.bh := rfl
@[simp] theorem nextBlock_tree (s : State) : (nextBlock s).tree = s.tree := rfl
@[simp] theorem nextBlock_treeSize (s : State) : (nextBlock s).treeSize = s.treeSize := rfl
@[simp] theorem nextBlock_src (s : State) : (nextBlock s).src = s.src := rfl
@[simp] theorem nextBlock_dst (s : State) : (nextBlock s).dst = s.dst := rfl
@[simp] theorem nextBlock_node (s : State) : (nextBlock s).node = s.node := rfl
@[simp] theorem nextBlock_lenRead (s : State) : (nextBlock s).lenRead = s.lenRead := rfl
@[simp] theorem nextBlock_buildIndex (s : State) : (nextBlock s).buildIndex = s.buildIndex := rfl
@[simp] theorem nextBlock_storedIndex (s : State) : (nextBlock s).storedIndex = s.storedIndex := rfl
@[simp] theorem nextBlock_pending (s : State) : (nextBlock s).pending = s.pending := rfl
@[simp] theorem nextBlock_readData (s : State) : (nextBlock s).readData = s.readData := rfl
@[simp] theorem nextBlock_freeCount (s : State) : (nextBlock s).freeCount = s.freeCount := rfl

/-! ### endCompressedBlock -/

@[simp] theorem endCompressedBlock_srcPresent (s : State) : (endCompressedBlock s).srcPresent = s.srcPresent := rfl
@[simp] theorem endCompressedBlock_code (s : State) : (endCompressedBlock s).code = s.code := rfl
@[simp] theorem endCompressedBlock_srcLen (s : State) : (endCompressedBlock s).srcLen = s.srcLen := rfl
@[simp] theorem endCompressedBlock_dstCap (s : State) : (endCompressedBlock s).dstCap = s.dstCap := rfl
@[simp] theorem endCompressedBlock_result (s : State) : (endCompressedBlock s).result = s.result := rfl
@[simp] theorem endCompressedBlock_writePosReg (s : State) : (endCompressedBlock s).writePosReg = s.writePosReg := rfl
@[simp] theorem endCompressedBlock_faultAddr (s : State) : (endCompressedBlock s).faultAddr = s.faultAddr := rfl
@[simp] theorem endCompressedBlock_faultBitpos (s : State) : (endCompressedBlock s).faultBitpos = s.faultBitpos := rfl
@[simp] theorem endCompressedBlock_faultBlock (s : State) : (endCompressedBlock s).faultBlock = s.faultBlock := rfl
@[simp] theorem endCompressedBlock_leafRule (s : State) : (endCompressedBlock s).leafRule = s.leafRule := rfl
@[simp] theorem endCompressedBlock_matchFallback (s : State) : (endCompressedBlock s).matchFallback = s.matchFallback := rfl
@[simp] theorem endCompressedBlock_bitPosition (s : State) : (endCompressedBlock s).bitPosition = s.bitPosition := rfl
@[simp] theorem endCompressedBlock_bitBase (s : State) : (endCompressedBlock s).bitBase = s.bitBase := rfl
@[simp] theorem endCompressedBlock_writePos (s : State) : (endCompressedBlock s).writePos = s.writePos := rfl
@[simp] theorem endCompressedBlock_blockStart (s : State) : (endCompressedBlock s).blockStart = s.blockStart + s.bh.compressedLength.setWidth 33 := rfl
@[simp] theorem endCompressedBlock_blockIndex (s : State) : (endCompressedBlock s).blockIndex = s.blockIndex + 1 := rfl
@[simp] theorem endCompressedBlock_seq (s : State) : (endCompressedBlock s).seq = if s.blockIndex + 1 = s.ch.blockCount then .finish else .blockHeader := rfl
@[simp] theorem endCompressedBlock_runRemaining (s : State) : (endCompressedBlock s).runRemaining = s.runRemaining := rfl
@[simp] theorem endCompressedBlock_matchRemaining (s : State) : (endCompressedBlock s).matchRemaining = s.matchRemaining := rfl
@[simp] theorem endCompressedBlock_matchDistance (s : State) : (endCompressedBlock s).matchDistance = s.matchDistance := rfl
@[simp] theorem endCompressedBlock_ch (s : State) : (endCompressedBlock s).ch = s.ch := rfl
@[simp] theorem endCompressedBlock_bh (s : State) : (endCompressedBlock s).bh = s.bh := rfl
@[simp] theorem endCompressedBlock_tree (s : State) : (endCompressedBlock s).tree = s.tree := rfl
@[simp] theorem endCompressedBlock_treeSize (s : State) : (endCompressedBlock s).treeSize = s.treeSize := rfl
@[simp] theorem endCompressedBlock_src (s : State) : (endCompressedBlock s).src = s.src := rfl
@[simp] theorem endCompressedBlock_dst (s : State) : (endCompressedBlock s).dst = s.dst := rfl
@[simp] theorem endCompressedBlock_node (s : State) : (endCompressedBlock s).node = s.node := rfl
@[simp] theorem endCompressedBlock_lenRead (s : State) : (endCompressedBlock s).lenRead = s.lenRead := rfl
@[simp] theorem endCompressedBlock_buildIndex (s : State) : (endCompressedBlock s).buildIndex = s.buildIndex := rfl
@[simp] theorem endCompressedBlock_storedIndex (s : State) : (endCompressedBlock s).storedIndex = s.storedIndex := rfl
@[simp] theorem endCompressedBlock_pending (s : State) : (endCompressedBlock s).pending = s.pending := rfl
@[simp] theorem endCompressedBlock_readData (s : State) : (endCompressedBlock s).readData = s.readData := rfl
@[simp] theorem endCompressedBlock_freeCount (s : State) : (endCompressedBlock s).freeCount = s.freeCount := rfl

/-! ### endStoredBlock -/

@[simp] theorem endStoredBlock_srcPresent (s : State) : (endStoredBlock s).srcPresent = s.srcPresent := rfl
@[simp] theorem endStoredBlock_code (s : State) : (endStoredBlock s).code = s.code := rfl
@[simp] theorem endStoredBlock_srcLen (s : State) : (endStoredBlock s).srcLen = s.srcLen := rfl
@[simp] theorem endStoredBlock_dstCap (s : State) : (endStoredBlock s).dstCap = s.dstCap := rfl
@[simp] theorem endStoredBlock_result (s : State) : (endStoredBlock s).result = s.result := rfl
@[simp] theorem endStoredBlock_writePosReg (s : State) : (endStoredBlock s).writePosReg = s.writePosReg := rfl
@[simp] theorem endStoredBlock_faultAddr (s : State) : (endStoredBlock s).faultAddr = s.faultAddr := rfl
@[simp] theorem endStoredBlock_faultBitpos (s : State) : (endStoredBlock s).faultBitpos = s.faultBitpos := rfl
@[simp] theorem endStoredBlock_faultBlock (s : State) : (endStoredBlock s).faultBlock = s.faultBlock := rfl
@[simp] theorem endStoredBlock_leafRule (s : State) : (endStoredBlock s).leafRule = s.leafRule := rfl
@[simp] theorem endStoredBlock_matchFallback (s : State) : (endStoredBlock s).matchFallback = s.matchFallback := rfl
@[simp] theorem endStoredBlock_bitPosition (s : State) : (endStoredBlock s).bitPosition = s.bitPosition := rfl
@[simp] theorem endStoredBlock_bitBase (s : State) : (endStoredBlock s).bitBase = s.bitBase := rfl
@[simp] theorem endStoredBlock_writePos (s : State) : (endStoredBlock s).writePos = s.writePos := rfl
@[simp] theorem endStoredBlock_blockStart (s : State) : (endStoredBlock s).blockStart = s.blockStart + 4 + s.bh.uncompressedLength.setWidth 33 := rfl
@[simp] theorem endStoredBlock_blockIndex (s : State) : (endStoredBlock s).blockIndex = s.blockIndex + 1 := rfl
@[simp] theorem endStoredBlock_seq (s : State) : (endStoredBlock s).seq = if s.blockIndex + 1 = s.ch.blockCount then .finish else .blockHeader := rfl
@[simp] theorem endStoredBlock_runRemaining (s : State) : (endStoredBlock s).runRemaining = s.runRemaining := rfl
@[simp] theorem endStoredBlock_matchRemaining (s : State) : (endStoredBlock s).matchRemaining = s.matchRemaining := rfl
@[simp] theorem endStoredBlock_matchDistance (s : State) : (endStoredBlock s).matchDistance = s.matchDistance := rfl
@[simp] theorem endStoredBlock_ch (s : State) : (endStoredBlock s).ch = s.ch := rfl
@[simp] theorem endStoredBlock_bh (s : State) : (endStoredBlock s).bh = s.bh := rfl
@[simp] theorem endStoredBlock_tree (s : State) : (endStoredBlock s).tree = s.tree := rfl
@[simp] theorem endStoredBlock_treeSize (s : State) : (endStoredBlock s).treeSize = s.treeSize := rfl
@[simp] theorem endStoredBlock_src (s : State) : (endStoredBlock s).src = s.src := rfl
@[simp] theorem endStoredBlock_dst (s : State) : (endStoredBlock s).dst = s.dst := rfl
@[simp] theorem endStoredBlock_node (s : State) : (endStoredBlock s).node = s.node := rfl
@[simp] theorem endStoredBlock_lenRead (s : State) : (endStoredBlock s).lenRead = s.lenRead := rfl
@[simp] theorem endStoredBlock_buildIndex (s : State) : (endStoredBlock s).buildIndex = s.buildIndex := rfl
@[simp] theorem endStoredBlock_storedIndex (s : State) : (endStoredBlock s).storedIndex = s.storedIndex := rfl
@[simp] theorem endStoredBlock_pending (s : State) : (endStoredBlock s).pending = s.pending := rfl
@[simp] theorem endStoredBlock_readData (s : State) : (endStoredBlock s).readData = s.readData := rfl
@[simp] theorem endStoredBlock_freeCount (s : State) : (endStoredBlock s).freeCount = s.freeCount := rfl

/-! ### setLengths -/

@[simp] theorem setLengths_srcPresent (u c : Half) (s : State) : (setLengths u c s).srcPresent = s.srcPresent := rfl
@[simp] theorem setLengths_code (u c : Half) (s : State) : (setLengths u c s).code = s.code := rfl
@[simp] theorem setLengths_srcLen (u c : Half) (s : State) : (setLengths u c s).srcLen = s.srcLen := rfl
@[simp] theorem setLengths_dstCap (u c : Half) (s : State) : (setLengths u c s).dstCap = s.dstCap := rfl
@[simp] theorem setLengths_result (u c : Half) (s : State) : (setLengths u c s).result = s.result := rfl
@[simp] theorem setLengths_writePosReg (u c : Half) (s : State) : (setLengths u c s).writePosReg = s.writePosReg := rfl
@[simp] theorem setLengths_faultAddr (u c : Half) (s : State) : (setLengths u c s).faultAddr = s.faultAddr := rfl
@[simp] theorem setLengths_faultBitpos (u c : Half) (s : State) : (setLengths u c s).faultBitpos = s.faultBitpos := rfl
@[simp] theorem setLengths_faultBlock (u c : Half) (s : State) : (setLengths u c s).faultBlock = s.faultBlock := rfl
@[simp] theorem setLengths_leafRule (u c : Half) (s : State) : (setLengths u c s).leafRule = s.leafRule := rfl
@[simp] theorem setLengths_matchFallback (u c : Half) (s : State) : (setLengths u c s).matchFallback = s.matchFallback := rfl
@[simp] theorem setLengths_bitPosition (u c : Half) (s : State) : (setLengths u c s).bitPosition = s.bitPosition := rfl
@[simp] theorem setLengths_bitBase (u c : Half) (s : State) : (setLengths u c s).bitBase = s.bitBase := rfl
@[simp] theorem setLengths_writePos (u c : Half) (s : State) : (setLengths u c s).writePos = s.writePos := rfl
@[simp] theorem setLengths_blockStart (u c : Half) (s : State) : (setLengths u c s).blockStart = s.blockStart := rfl
@[simp] theorem setLengths_blockIndex (u c : Half) (s : State) : (setLengths u c s).blockIndex = s.blockIndex := rfl
@[simp] theorem setLengths_seq (u c : Half) (s : State) : (setLengths u c s).seq = s.seq := rfl
@[simp] theorem setLengths_runRemaining (u c : Half) (s : State) : (setLengths u c s).runRemaining = s.runRemaining := rfl
@[simp] theorem setLengths_matchRemaining (u c : Half) (s : State) : (setLengths u c s).matchRemaining = s.matchRemaining := rfl
@[simp] theorem setLengths_matchDistance (u c : Half) (s : State) : (setLengths u c s).matchDistance = s.matchDistance := rfl
@[simp] theorem setLengths_ch (u c : Half) (s : State) : (setLengths u c s).ch = s.ch := rfl
@[simp] theorem setLengths_bh (u c : Half) (s : State) : (setLengths u c s).bh = { s.bh with uncompressedLength := u, compressedLength := c } := rfl
@[simp] theorem setLengths_tree (u c : Half) (s : State) : (setLengths u c s).tree = s.tree := rfl
@[simp] theorem setLengths_treeSize (u c : Half) (s : State) : (setLengths u c s).treeSize = s.treeSize := rfl
@[simp] theorem setLengths_src (u c : Half) (s : State) : (setLengths u c s).src = s.src := rfl
@[simp] theorem setLengths_dst (u c : Half) (s : State) : (setLengths u c s).dst = s.dst := rfl
@[simp] theorem setLengths_node (u c : Half) (s : State) : (setLengths u c s).node = s.node := rfl
@[simp] theorem setLengths_lenRead (u c : Half) (s : State) : (setLengths u c s).lenRead = s.lenRead := rfl
@[simp] theorem setLengths_buildIndex (u c : Half) (s : State) : (setLengths u c s).buildIndex = s.buildIndex := rfl
@[simp] theorem setLengths_storedIndex (u c : Half) (s : State) : (setLengths u c s).storedIndex = s.storedIndex := rfl
@[simp] theorem setLengths_pending (u c : Half) (s : State) : (setLengths u c s).pending = s.pending := rfl
@[simp] theorem setLengths_readData (u c : Half) (s : State) : (setLengths u c s).readData = s.readData := rfl
@[simp] theorem setLengths_freeCount (u c : Half) (s : State) : (setLengths u c s).freeCount = s.freeCount := rfl

/-! ### loadLength -/

@[simp] theorem loadLength_srcPresent (len : Word) (s : State) : (loadLength len s).srcPresent = s.srcPresent := rfl
@[simp] theorem loadLength_code (len : Word) (s : State) : (loadLength len s).code = s.code := rfl
@[simp] theorem loadLength_srcLen (len : Word) (s : State) : (loadLength len s).srcLen = s.srcLen := rfl
@[simp] theorem loadLength_dstCap (len : Word) (s : State) : (loadLength len s).dstCap = s.dstCap := rfl
@[simp] theorem loadLength_result (len : Word) (s : State) : (loadLength len s).result = s.result := rfl
@[simp] theorem loadLength_writePosReg (len : Word) (s : State) : (loadLength len s).writePosReg = s.writePosReg := rfl
@[simp] theorem loadLength_faultAddr (len : Word) (s : State) : (loadLength len s).faultAddr = s.faultAddr := rfl
@[simp] theorem loadLength_faultBitpos (len : Word) (s : State) : (loadLength len s).faultBitpos = s.faultBitpos := rfl
@[simp] theorem loadLength_faultBlock (len : Word) (s : State) : (loadLength len s).faultBlock = s.faultBlock := rfl
@[simp] theorem loadLength_leafRule (len : Word) (s : State) : (loadLength len s).leafRule = s.leafRule := rfl
@[simp] theorem loadLength_matchFallback (len : Word) (s : State) : (loadLength len s).matchFallback = s.matchFallback := rfl
@[simp] theorem loadLength_bitPosition (len : Word) (s : State) : (loadLength len s).bitPosition = s.bitPosition := rfl
@[simp] theorem loadLength_bitBase (len : Word) (s : State) : (loadLength len s).bitBase = s.bitBase := rfl
@[simp] theorem loadLength_writePos (len : Word) (s : State) : (loadLength len s).writePos = s.writePos := rfl
@[simp] theorem loadLength_blockStart (len : Word) (s : State) : (loadLength len s).blockStart = s.blockStart := rfl
@[simp] theorem loadLength_blockIndex (len : Word) (s : State) : (loadLength len s).blockIndex = s.blockIndex := rfl
@[simp] theorem loadLength_seq (len : Word) (s : State) : (loadLength len s).seq = s.seq := rfl
@[simp] theorem loadLength_runRemaining (len : Word) (s : State) : (loadLength len s).runRemaining = s.runRemaining := rfl
@[simp] theorem loadLength_matchRemaining (len : Word) (s : State) : (loadLength len s).matchRemaining = s.matchRemaining := rfl
@[simp] theorem loadLength_matchDistance (len : Word) (s : State) : (loadLength len s).matchDistance = s.matchDistance := rfl
@[simp] theorem loadLength_ch (len : Word) (s : State) : (loadLength len s).ch = s.ch := rfl
@[simp] theorem loadLength_bh (len : Word) (s : State) : (loadLength len s).bh = s.bh := rfl
@[simp] theorem loadLength_tree (len : Word) (s : State) : (loadLength len s).tree = s.tree := rfl
@[simp] theorem loadLength_treeSize (len : Word) (s : State) : (loadLength len s).treeSize = s.treeSize := rfl
@[simp] theorem loadLength_src (len : Word) (s : State) : (loadLength len s).src = s.src := rfl
@[simp] theorem loadLength_dst (len : Word) (s : State) : (loadLength len s).dst = s.dst := rfl
@[simp] theorem loadLength_node (len : Word) (s : State) : (loadLength len s).node = s.node := rfl
@[simp] theorem loadLength_lenRead (len : Word) (s : State) : (loadLength len s).lenRead = some len := rfl
@[simp] theorem loadLength_buildIndex (len : Word) (s : State) : (loadLength len s).buildIndex = s.buildIndex := rfl
@[simp] theorem loadLength_storedIndex (len : Word) (s : State) : (loadLength len s).storedIndex = s.storedIndex := rfl
@[simp] theorem loadLength_pending (len : Word) (s : State) : (loadLength len s).pending = s.pending := rfl
@[simp] theorem loadLength_readData (len : Word) (s : State) : (loadLength len s).readData = s.readData := rfl
@[simp] theorem loadLength_freeCount (len : Word) (s : State) : (loadLength len s).freeCount = s.freeCount := rfl

/-! ### loadMatch -/

@[simp] theorem loadMatch_srcPresent (len dist : Word) (s : State) : (loadMatch len dist s).srcPresent = s.srcPresent := rfl
@[simp] theorem loadMatch_code (len dist : Word) (s : State) : (loadMatch len dist s).code = s.code := rfl
@[simp] theorem loadMatch_srcLen (len dist : Word) (s : State) : (loadMatch len dist s).srcLen = s.srcLen := rfl
@[simp] theorem loadMatch_dstCap (len dist : Word) (s : State) : (loadMatch len dist s).dstCap = s.dstCap := rfl
@[simp] theorem loadMatch_result (len dist : Word) (s : State) : (loadMatch len dist s).result = s.result := rfl
@[simp] theorem loadMatch_writePosReg (len dist : Word) (s : State) : (loadMatch len dist s).writePosReg = s.writePosReg := rfl
@[simp] theorem loadMatch_faultAddr (len dist : Word) (s : State) : (loadMatch len dist s).faultAddr = s.faultAddr := rfl
@[simp] theorem loadMatch_faultBitpos (len dist : Word) (s : State) : (loadMatch len dist s).faultBitpos = s.faultBitpos := rfl
@[simp] theorem loadMatch_faultBlock (len dist : Word) (s : State) : (loadMatch len dist s).faultBlock = s.faultBlock := rfl
@[simp] theorem loadMatch_leafRule (len dist : Word) (s : State) : (loadMatch len dist s).leafRule = s.leafRule := rfl
@[simp] theorem loadMatch_matchFallback (len dist : Word) (s : State) : (loadMatch len dist s).matchFallback = s.matchFallback := rfl
@[simp] theorem loadMatch_bitPosition (len dist : Word) (s : State) : (loadMatch len dist s).bitPosition = s.bitPosition := rfl
@[simp] theorem loadMatch_bitBase (len dist : Word) (s : State) : (loadMatch len dist s).bitBase = s.bitBase := rfl
@[simp] theorem loadMatch_writePos (len dist : Word) (s : State) : (loadMatch len dist s).writePos = s.writePos := rfl
@[simp] theorem loadMatch_blockStart (len dist : Word) (s : State) : (loadMatch len dist s).blockStart = s.blockStart := rfl
@[simp] theorem loadMatch_blockIndex (len dist : Word) (s : State) : (loadMatch len dist s).blockIndex = s.blockIndex := rfl
@[simp] theorem loadMatch_seq (len dist : Word) (s : State) : (loadMatch len dist s).seq = .matchCopy := rfl
@[simp] theorem loadMatch_runRemaining (len dist : Word) (s : State) : (loadMatch len dist s).runRemaining = s.runRemaining := rfl
@[simp] theorem loadMatch_matchRemaining (len dist : Word) (s : State) : (loadMatch len dist s).matchRemaining = len := rfl
@[simp] theorem loadMatch_matchDistance (len dist : Word) (s : State) : (loadMatch len dist s).matchDistance = dist := rfl
@[simp] theorem loadMatch_ch (len dist : Word) (s : State) : (loadMatch len dist s).ch = s.ch := rfl
@[simp] theorem loadMatch_bh (len dist : Word) (s : State) : (loadMatch len dist s).bh = s.bh := rfl
@[simp] theorem loadMatch_tree (len dist : Word) (s : State) : (loadMatch len dist s).tree = s.tree := rfl
@[simp] theorem loadMatch_treeSize (len dist : Word) (s : State) : (loadMatch len dist s).treeSize = s.treeSize := rfl
@[simp] theorem loadMatch_src (len dist : Word) (s : State) : (loadMatch len dist s).src = s.src := rfl
@[simp] theorem loadMatch_dst (len dist : Word) (s : State) : (loadMatch len dist s).dst = s.dst := rfl
@[simp] theorem loadMatch_node (len dist : Word) (s : State) : (loadMatch len dist s).node = s.node := rfl
@[simp] theorem loadMatch_lenRead (len dist : Word) (s : State) : (loadMatch len dist s).lenRead = none := rfl
@[simp] theorem loadMatch_buildIndex (len dist : Word) (s : State) : (loadMatch len dist s).buildIndex = s.buildIndex := rfl
@[simp] theorem loadMatch_storedIndex (len dist : Word) (s : State) : (loadMatch len dist s).storedIndex = s.storedIndex := rfl
@[simp] theorem loadMatch_pending (len dist : Word) (s : State) : (loadMatch len dist s).pending = s.pending := rfl
@[simp] theorem loadMatch_readData (len dist : Word) (s : State) : (loadMatch len dist s).readData = s.readData := rfl
@[simp] theorem loadMatch_freeCount (len dist : Word) (s : State) : (loadMatch len dist s).freeCount = s.freeCount := rfl

/-! ### enterBitstream -/

@[simp] theorem enterBitstream_srcPresent (s : State) : (enterBitstream s).srcPresent = s.srcPresent := rfl
@[simp] theorem enterBitstream_code (s : State) : (enterBitstream s).code = s.code := rfl
@[simp] theorem enterBitstream_srcLen (s : State) : (enterBitstream s).srcLen = s.srcLen := rfl
@[simp] theorem enterBitstream_dstCap (s : State) : (enterBitstream s).dstCap = s.dstCap := rfl
@[simp] theorem enterBitstream_result (s : State) : (enterBitstream s).result = s.result := rfl
@[simp] theorem enterBitstream_writePosReg (s : State) : (enterBitstream s).writePosReg = s.writePosReg := rfl
@[simp] theorem enterBitstream_faultAddr (s : State) : (enterBitstream s).faultAddr = s.faultAddr := rfl
@[simp] theorem enterBitstream_faultBitpos (s : State) : (enterBitstream s).faultBitpos = s.faultBitpos := rfl
@[simp] theorem enterBitstream_faultBlock (s : State) : (enterBitstream s).faultBlock = s.faultBlock := rfl
@[simp] theorem enterBitstream_leafRule (s : State) : (enterBitstream s).leafRule = s.leafRule := rfl
@[simp] theorem enterBitstream_matchFallback (s : State) : (enterBitstream s).matchFallback = s.matchFallback := rfl
@[simp] theorem enterBitstream_bitPosition (s : State) : (enterBitstream s).bitPosition = 0 := rfl
@[simp] theorem enterBitstream_bitBase (s : State) : (enterBitstream s).bitBase = BitVec.ofNat 32 (s.blockStart.toNat + 24) := rfl
@[simp] theorem enterBitstream_writePos (s : State) : (enterBitstream s).writePos = s.writePos := rfl
@[simp] theorem enterBitstream_blockStart (s : State) : (enterBitstream s).blockStart = s.blockStart := rfl
@[simp] theorem enterBitstream_blockIndex (s : State) : (enterBitstream s).blockIndex = s.blockIndex := rfl
@[simp] theorem enterBitstream_seq (s : State) : (enterBitstream s).seq = .litCount := rfl
@[simp] theorem enterBitstream_runRemaining (s : State) : (enterBitstream s).runRemaining = s.runRemaining := rfl
@[simp] theorem enterBitstream_matchRemaining (s : State) : (enterBitstream s).matchRemaining = s.matchRemaining := rfl
@[simp] theorem enterBitstream_matchDistance (s : State) : (enterBitstream s).matchDistance = s.matchDistance := rfl
@[simp] theorem enterBitstream_ch (s : State) : (enterBitstream s).ch = s.ch := rfl
@[simp] theorem enterBitstream_bh (s : State) : (enterBitstream s).bh = s.bh := rfl
@[simp] theorem enterBitstream_tree (s : State) : (enterBitstream s).tree = s.tree := rfl
@[simp] theorem enterBitstream_treeSize (s : State) : (enterBitstream s).treeSize = s.treeSize := rfl
@[simp] theorem enterBitstream_src (s : State) : (enterBitstream s).src = s.src := rfl
@[simp] theorem enterBitstream_dst (s : State) : (enterBitstream s).dst = s.dst := rfl
@[simp] theorem enterBitstream_node (s : State) : (enterBitstream s).node = s.node := rfl
@[simp] theorem enterBitstream_lenRead (s : State) : (enterBitstream s).lenRead = s.lenRead := rfl
@[simp] theorem enterBitstream_buildIndex (s : State) : (enterBitstream s).buildIndex = s.buildIndex := rfl
@[simp] theorem enterBitstream_storedIndex (s : State) : (enterBitstream s).storedIndex = s.storedIndex := rfl
@[simp] theorem enterBitstream_pending (s : State) : (enterBitstream s).pending = s.pending := rfl
@[simp] theorem enterBitstream_readData (s : State) : (enterBitstream s).readData = s.readData := rfl
@[simp] theorem enterBitstream_freeCount (s : State) : (enterBitstream s).freeCount = s.freeCount := rfl

/-! ### beginTree -/

@[simp] theorem beginTree_srcPresent (s : State) : (beginTree s).srcPresent = s.srcPresent := rfl
@[simp] theorem beginTree_code (s : State) : (beginTree s).code = s.code := rfl
@[simp] theorem beginTree_srcLen (s : State) : (beginTree s).srcLen = s.srcLen := rfl
@[simp] theorem beginTree_dstCap (s : State) : (beginTree s).dstCap = s.dstCap := rfl
@[simp] theorem beginTree_result (s : State) : (beginTree s).result = s.result := rfl
@[simp] theorem beginTree_writePosReg (s : State) : (beginTree s).writePosReg = s.writePosReg := rfl
@[simp] theorem beginTree_faultAddr (s : State) : (beginTree s).faultAddr = s.faultAddr := rfl
@[simp] theorem beginTree_faultBitpos (s : State) : (beginTree s).faultBitpos = s.faultBitpos := rfl
@[simp] theorem beginTree_faultBlock (s : State) : (beginTree s).faultBlock = s.faultBlock := rfl
@[simp] theorem beginTree_leafRule (s : State) : (beginTree s).leafRule = s.leafRule := rfl
@[simp] theorem beginTree_matchFallback (s : State) : (beginTree s).matchFallback = s.matchFallback := rfl
@[simp] theorem beginTree_bitPosition (s : State) : (beginTree s).bitPosition = 0 := rfl
@[simp] theorem beginTree_bitBase (s : State) : (beginTree s).bitBase = BitVec.ofNat 32 (16 + 2 * s.ch.huffmanTreeByteLength.toNat) := rfl
@[simp] theorem beginTree_writePos (s : State) : (beginTree s).writePos = s.writePos := rfl
@[simp] theorem beginTree_blockStart (s : State) : (beginTree s).blockStart = s.blockStart := rfl
@[simp] theorem beginTree_blockIndex (s : State) : (beginTree s).blockIndex = s.blockIndex := rfl
@[simp] theorem beginTree_seq (s : State) : (beginTree s).seq = s.seq := rfl
@[simp] theorem beginTree_runRemaining (s : State) : (beginTree s).runRemaining = s.runRemaining := rfl
@[simp] theorem beginTree_matchRemaining (s : State) : (beginTree s).matchRemaining = s.matchRemaining := rfl
@[simp] theorem beginTree_matchDistance (s : State) : (beginTree s).matchDistance = s.matchDistance := rfl
@[simp] theorem beginTree_ch (s : State) : (beginTree s).ch = s.ch := rfl
@[simp] theorem beginTree_bh (s : State) : (beginTree s).bh = s.bh := rfl
@[simp] theorem beginTree_tree (s : State) : (beginTree s).tree = s.tree.setIfInBounds 0 rootNode :=
  setTree_tree 0 rootNode s
@[simp] theorem beginTree_treeSize (s : State) : (beginTree s).treeSize = BitVec.ofNat 9 (2 * s.ch.huffmanTreeByteLength.toNat) := rfl
@[simp] theorem beginTree_src (s : State) : (beginTree s).src = s.src := rfl
@[simp] theorem beginTree_dst (s : State) : (beginTree s).dst = s.dst := rfl
@[simp] theorem beginTree_node (s : State) : (beginTree s).node = s.node := rfl
@[simp] theorem beginTree_lenRead (s : State) : (beginTree s).lenRead = s.lenRead := rfl
@[simp] theorem beginTree_buildIndex (s : State) : (beginTree s).buildIndex = 1 := rfl
@[simp] theorem beginTree_storedIndex (s : State) : (beginTree s).storedIndex = s.storedIndex := rfl
@[simp] theorem beginTree_pending (s : State) : (beginTree s).pending = s.pending := rfl
@[simp] theorem beginTree_readData (s : State) : (beginTree s).readData = s.readData := rfl
@[simp] theorem beginTree_freeCount (s : State) : (beginTree s).freeCount = s.freeCount := rfl

/-! ### endTree -/

@[simp] theorem endTree_srcPresent (s : State) : (endTree s).srcPresent = s.srcPresent := rfl
@[simp] theorem endTree_code (s : State) : (endTree s).code = s.code := rfl
@[simp] theorem endTree_srcLen (s : State) : (endTree s).srcLen = s.srcLen := rfl
@[simp] theorem endTree_dstCap (s : State) : (endTree s).dstCap = s.dstCap := rfl
@[simp] theorem endTree_result (s : State) : (endTree s).result = s.result := rfl
@[simp] theorem endTree_writePosReg (s : State) : (endTree s).writePosReg = s.writePosReg := rfl
@[simp] theorem endTree_faultAddr (s : State) : (endTree s).faultAddr = s.faultAddr := rfl
@[simp] theorem endTree_faultBitpos (s : State) : (endTree s).faultBitpos = s.faultBitpos := rfl
@[simp] theorem endTree_faultBlock (s : State) : (endTree s).faultBlock = s.faultBlock := rfl
@[simp] theorem endTree_leafRule (s : State) : (endTree s).leafRule = s.leafRule := rfl
@[simp] theorem endTree_matchFallback (s : State) : (endTree s).matchFallback = s.matchFallback := rfl
@[simp] theorem endTree_bitPosition (s : State) : (endTree s).bitPosition = s.bitPosition := rfl
@[simp] theorem endTree_bitBase (s : State) : (endTree s).bitBase = s.bitBase := rfl
@[simp] theorem endTree_writePos (s : State) : (endTree s).writePos = s.writePos := rfl
@[simp] theorem endTree_blockStart (s : State) : (endTree s).blockStart = BitVec.ofNat 33 (huffmanEnd s.ch.huffmanTreeByteLength) := rfl
@[simp] theorem endTree_blockIndex (s : State) : (endTree s).blockIndex = 0 := rfl
@[simp] theorem endTree_seq (s : State) : (endTree s).seq = if s.ch.blockCount = 0 then .finish else .blockHeader := rfl
@[simp] theorem endTree_runRemaining (s : State) : (endTree s).runRemaining = s.runRemaining := rfl
@[simp] theorem endTree_matchRemaining (s : State) : (endTree s).matchRemaining = s.matchRemaining := rfl
@[simp] theorem endTree_matchDistance (s : State) : (endTree s).matchDistance = s.matchDistance := rfl
@[simp] theorem endTree_ch (s : State) : (endTree s).ch = s.ch := rfl
@[simp] theorem endTree_bh (s : State) : (endTree s).bh = s.bh := rfl
@[simp] theorem endTree_tree (s : State) : (endTree s).tree = s.tree := rfl
@[simp] theorem endTree_treeSize (s : State) : (endTree s).treeSize = s.treeSize := rfl
@[simp] theorem endTree_src (s : State) : (endTree s).src = s.src := rfl
@[simp] theorem endTree_dst (s : State) : (endTree s).dst = s.dst := rfl
@[simp] theorem endTree_node (s : State) : (endTree s).node = s.node := rfl
@[simp] theorem endTree_lenRead (s : State) : (endTree s).lenRead = s.lenRead := rfl
@[simp] theorem endTree_buildIndex (s : State) : (endTree s).buildIndex = s.buildIndex := rfl
@[simp] theorem endTree_storedIndex (s : State) : (endTree s).storedIndex = s.storedIndex := rfl
@[simp] theorem endTree_pending (s : State) : (endTree s).pending = s.pending := rfl
@[simp] theorem endTree_readData (s : State) : (endTree s).readData = s.readData := rfl
@[simp] theorem endTree_freeCount (s : State) : (endTree s).freeCount = s.freeCount := rfl

/-! ### endMatch -/

@[simp] theorem endMatch_srcPresent (s : State) : (endMatch s).srcPresent = s.srcPresent := rfl
@[simp] theorem endMatch_code (s : State) : (endMatch s).code = s.code := rfl
@[simp] theorem endMatch_srcLen (s : State) : (endMatch s).srcLen = s.srcLen := rfl
@[simp] theorem endMatch_dstCap (s : State) : (endMatch s).dstCap = s.dstCap := rfl
@[simp] theorem endMatch_result (s : State) : (endMatch s).result = s.result := rfl
@[simp] theorem endMatch_writePosReg (s : State) : (endMatch s).writePosReg = s.writePosReg := rfl
@[simp] theorem endMatch_faultAddr (s : State) : (endMatch s).faultAddr = s.faultAddr := rfl
@[simp] theorem endMatch_faultBitpos (s : State) : (endMatch s).faultBitpos = s.faultBitpos := rfl
@[simp] theorem endMatch_faultBlock (s : State) : (endMatch s).faultBlock = s.faultBlock := rfl
@[simp] theorem endMatch_leafRule (s : State) : (endMatch s).leafRule = s.leafRule := rfl
@[simp] theorem endMatch_matchFallback (s : State) : (endMatch s).matchFallback = s.matchFallback := rfl
@[simp] theorem endMatch_bitPosition (s : State) : (endMatch s).bitPosition = s.bitPosition := rfl
@[simp] theorem endMatch_bitBase (s : State) : (endMatch s).bitBase = s.bitBase := rfl
@[simp] theorem endMatch_writePos (s : State) : (endMatch s).writePos = s.writePos := rfl
@[simp] theorem endMatch_blockStart (s : State) : (endMatch s).blockStart = s.blockStart := rfl
@[simp] theorem endMatch_blockIndex (s : State) : (endMatch s).blockIndex = s.blockIndex := rfl
@[simp] theorem endMatch_seq (s : State) : (endMatch s).seq = if s.runRemaining - 1 = 0 then .litCount else .matchItem := rfl
@[simp] theorem endMatch_runRemaining (s : State) : (endMatch s).runRemaining = s.runRemaining - 1 := rfl
@[simp] theorem endMatch_matchRemaining (s : State) : (endMatch s).matchRemaining = s.matchRemaining := rfl
@[simp] theorem endMatch_matchDistance (s : State) : (endMatch s).matchDistance = s.matchDistance := rfl
@[simp] theorem endMatch_ch (s : State) : (endMatch s).ch = s.ch := rfl
@[simp] theorem endMatch_bh (s : State) : (endMatch s).bh = s.bh := rfl
@[simp] theorem endMatch_tree (s : State) : (endMatch s).tree = s.tree := rfl
@[simp] theorem endMatch_treeSize (s : State) : (endMatch s).treeSize = s.treeSize := rfl
@[simp] theorem endMatch_src (s : State) : (endMatch s).src = s.src := rfl
@[simp] theorem endMatch_dst (s : State) : (endMatch s).dst = s.dst := rfl
@[simp] theorem endMatch_node (s : State) : (endMatch s).node = s.node := rfl
@[simp] theorem endMatch_lenRead (s : State) : (endMatch s).lenRead = s.lenRead := rfl
@[simp] theorem endMatch_buildIndex (s : State) : (endMatch s).buildIndex = s.buildIndex := rfl
@[simp] theorem endMatch_storedIndex (s : State) : (endMatch s).storedIndex = s.storedIndex := rfl
@[simp] theorem endMatch_pending (s : State) : (endMatch s).pending = s.pending := rfl
@[simp] theorem endMatch_readData (s : State) : (endMatch s).readData = s.readData := rfl
@[simp] theorem endMatch_freeCount (s : State) : (endMatch s).freeCount = s.freeCount := rfl

/-! ### finishDecode -/

@[simp] theorem finishDecode_srcPresent (s : State) : (finishDecode s).srcPresent = s.srcPresent := rfl
@[simp] theorem finishDecode_code (s : State) : (finishDecode s).code = 0 := rfl
@[simp] theorem finishDecode_srcLen (s : State) : (finishDecode s).srcLen = s.srcLen := rfl
@[simp] theorem finishDecode_dstCap (s : State) : (finishDecode s).dstCap = s.dstCap := rfl
@[simp] theorem finishDecode_result (s : State) : (finishDecode s).result = s.ch.uncompressedLength := rfl
@[simp] theorem finishDecode_writePosReg (s : State) : (finishDecode s).writePosReg = s.writePos := rfl
@[simp] theorem finishDecode_faultAddr (s : State) : (finishDecode s).faultAddr = s.faultAddr := rfl
@[simp] theorem finishDecode_faultBitpos (s : State) : (finishDecode s).faultBitpos = s.faultBitpos := rfl
@[simp] theorem finishDecode_faultBlock (s : State) : (finishDecode s).faultBlock = s.faultBlock := rfl
@[simp] theorem finishDecode_leafRule (s : State) : (finishDecode s).leafRule = s.leafRule := rfl
@[simp] theorem finishDecode_matchFallback (s : State) : (finishDecode s).matchFallback = s.matchFallback := rfl
@[simp] theorem finishDecode_bitPosition (s : State) : (finishDecode s).bitPosition = s.bitPosition := rfl
@[simp] theorem finishDecode_bitBase (s : State) : (finishDecode s).bitBase = s.bitBase := rfl
@[simp] theorem finishDecode_writePos (s : State) : (finishDecode s).writePos = s.writePos := rfl
@[simp] theorem finishDecode_blockStart (s : State) : (finishDecode s).blockStart = s.blockStart := rfl
@[simp] theorem finishDecode_blockIndex (s : State) : (finishDecode s).blockIndex = s.blockIndex := rfl
@[simp] theorem finishDecode_seq (s : State) : (finishDecode s).seq = .done := rfl
@[simp] theorem finishDecode_runRemaining (s : State) : (finishDecode s).runRemaining = s.runRemaining := rfl
@[simp] theorem finishDecode_matchRemaining (s : State) : (finishDecode s).matchRemaining = s.matchRemaining := rfl
@[simp] theorem finishDecode_matchDistance (s : State) : (finishDecode s).matchDistance = s.matchDistance := rfl
@[simp] theorem finishDecode_ch (s : State) : (finishDecode s).ch = s.ch := rfl
@[simp] theorem finishDecode_bh (s : State) : (finishDecode s).bh = s.bh := rfl
@[simp] theorem finishDecode_tree (s : State) : (finishDecode s).tree = s.tree := rfl
@[simp] theorem finishDecode_treeSize (s : State) : (finishDecode s).treeSize = s.treeSize := rfl
@[simp] theorem finishDecode_src (s : State) : (finishDecode s).src = s.src := rfl
@[simp] theorem finishDecode_dst (s : State) : (finishDecode s).dst = s.dst := rfl
@[simp] theorem finishDecode_node (s : State) : (finishDecode s).node = s.node := rfl
@[simp] theorem finishDecode_lenRead (s : State) : (finishDecode s).lenRead = s.lenRead := rfl
@[simp] theorem finishDecode_buildIndex (s : State) : (finishDecode s).buildIndex = s.buildIndex := rfl
@[simp] theorem finishDecode_storedIndex (s : State) : (finishDecode s).storedIndex = s.storedIndex := rfl
@[simp] theorem finishDecode_pending (s : State) : (finishDecode s).pending = s.pending := rfl
@[simp] theorem finishDecode_readData (s : State) : (finishDecode s).readData = s.readData := rfl
@[simp] theorem finishDecode_freeCount (s : State) : (finishDecode s).freeCount = s.freeCount := rfl

end Sys2Proof.Machine
end

