-- ==== Sys2Proof/Laws/Ops.lean ====
section
/-! SUPPORT. Laws/Ops.lean: for each shared operation, one lemma that says everything it can do. Proofs about
meanings and steps cite these and unfold no operation. -/

namespace Sys2Proof.Machine

/-! ### Rules that may raise -/

@[simp] theorem Res.bind_ok {α β : Type} (a : α) (s : State) (f : α → State → Res β) :
    (Res.ok a s).bind f = f a s := rfl

@[simp] theorem Res.bind_raised {α β : Type} (s : State) (f : α → State → Res β) :
    (Res.raised s : Res α).bind f = .raised s := rfl

@[simp] theorem Res.bind_raise {α β : Type} (e : Failure) (n : Nat) (s : State) (f : α → State → Res β) :
    (raise e n s : Res α).bind f = raise e n s := rfl

@[simp] theorem Res.state_ok {α : Type} (a : α) (s : State) : (Res.ok a s).state = s := rfl

@[simp] theorem Res.state_raised {α : Type} (s : State) : (Res.raised s : Res α).state = s := rfl

@[simp] theorem Res.toResult_ok {α : Type} (a : α) (s : State) : (Res.ok a s).toResult = .next s := rfl

@[simp] theorem Res.toResult_raised {α : Type} (s : State) : (Res.raised s : Res α).toResult = .next s := rfl

@[simp] theorem Res.toResult_raise {α : Type} (e : Failure) (n : Nat) (s : State) :
    (raise e n s : Res α).toResult = .next (takeFailure e n s) := rfl

@[simp] theorem Res.toFetched_ok (i : Instr) (s : State) : (Res.ok i s).toFetched = .instr i s := rfl

@[simp] theorem Res.toFetched_raised (s : State) : (Res.raised s).toFetched = .other (.next s) := rfl

@[simp] theorem Res.toFetched_raise (e : Failure) (n : Nat) (s : State) :
    (raise e n s).toFetched = .other (.next (takeFailure e n s)) := rfl

@[simp] theorem Res.seqAll_nil (s : State) : Res.seqAll [] s = .ok () s := rfl

@[simp] theorem Res.seqAll_cons (f : State → Res Unit) (fs : List (State → Res Unit)) (s : State) :
    Res.seqAll (f :: fs) s = (f s).bind fun _ s => Res.seqAll fs s := rfl

/-- A sequence ends in a predicate that each of its operations keeps, whatever it is. -/
theorem Res.seqAll_keeps (P : State → Prop) (fs : List (State → Res Unit))
    (h : ∀ f ∈ fs, ∀ s, P s → P (f s).state) (s : State) (hs : P s) : P (Res.seqAll fs s).state := by
  induction fs generalizing s with
  | nil => exact hs
  | cons f fs ih =>
    rw [Res.seqAll_cons]
    have h1 := h f (by simp) s hs
    cases hf : f s with
    | ok a t =>
      rw [hf] at h1
      exact ih (fun g hg => h g (by simp [hg])) t h1
    | raised t =>
      rw [hf] at h1
      exact h1

/-! ### Source reads -/

/-- `SrcRead` answers the byte below SRC_LEN and raises SourceOverrun at or past it. -/
theorem srcRead_cases (a : Nat) (s : State) :
    (a < s.srcLen.toNat ∧ srcRead a s = .ok (s.src.read a) s) ∨
    (s.srcLen.toNat ≤ a ∧ srcRead a s = raise .sourceOverrun a s) := by
  unfold srcRead
  split
  · exact .inr ⟨‹_›, rfl⟩
  · exact .inl ⟨by omega, rfl⟩

theorem srcRead_ok {a : Nat} {s : State} (h : a < s.srcLen.toNat) : srcRead a s = .ok (s.src.read a) s := by
  rw [srcRead, if_neg (by omega)]

theorem srcRead_overrun {a : Nat} {s : State} (h : s.srcLen.toNat ≤ a) :
    srcRead a s = raise .sourceOverrun a s := if_pos h

/-- `SrcRead16` answers the two bytes or raises at the first that is out of range. -/
theorem srcRead16_cases (a : Nat) (s : State) :
    (a + 1 < s.srcLen.toNat ∧ srcRead16 a s = .ok (le16 (s.src.read a) (s.src.read (a + 1))) s) ∨
    (s.srcLen.toNat ≤ a + 1 ∧ srcRead16 a s = raise .sourceOverrun (max a s.srcLen.toNat) s) := by
  unfold srcRead16
  rcases srcRead_cases a s with ⟨h, e⟩ | ⟨h, e⟩
  · rcases srcRead_cases (a + 1) s with ⟨h', e'⟩ | ⟨h', e'⟩
    · exact .inl ⟨h', by simp [e, e']⟩
    · exact .inr ⟨h', by rw [e, Res.bind_ok, e', Res.bind_raise]; congr 1; omega⟩
  · exact .inr ⟨by omega, by rw [e, Res.bind_raise]; congr 1; omega⟩

theorem srcRead16_ok {a : Nat} {s : State} (h : a + 1 < s.srcLen.toNat) :
    srcRead16 a s = .ok (le16 (s.src.read a) (s.src.read (a + 1))) s := by
  rcases srcRead16_cases a s with ⟨_, e⟩ | ⟨h', _⟩
  · exact e
  · omega

/-- The u32 read answers the four bytes or raises at the first that is out of range. -/
theorem srcRead32_cases (a : Nat) (s : State) :
    (a + 3 < s.srcLen.toNat ∧ srcRead32 a s =
      .ok (le32 (s.src.read a) (s.src.read (a + 1)) (s.src.read (a + 2)) (s.src.read (a + 3))) s) ∨
    (s.srcLen.toNat ≤ a + 3 ∧ srcRead32 a s = raise .sourceOverrun (max a s.srcLen.toNat) s) := by
  unfold srcRead32
  rcases srcRead_cases a s with ⟨h0, e0⟩ | ⟨h0, e0⟩
  · rcases srcRead_cases (a + 1) s with ⟨h1, e1⟩ | ⟨h1, e1⟩
    · rcases srcRead_cases (a + 2) s with ⟨h2, e2⟩ | ⟨h2, e2⟩
      · rcases srcRead_cases (a + 3) s with ⟨h3, e3⟩ | ⟨h3, e3⟩
        · exact .inl ⟨h3, by simp [e0, e1, e2, e3]⟩
        · exact .inr ⟨h3, by simp only [e0, e1, e2, e3, Res.bind_ok, Res.bind_raise]; congr 1; omega⟩
      · exact .inr ⟨by omega, by simp only [e0, e1, e2, Res.bind_ok, Res.bind_raise]; congr 1; omega⟩
    · exact .inr ⟨by omega, by simp only [e0, e1, Res.bind_ok, Res.bind_raise]; congr 1; omega⟩
  · exact .inr ⟨by omega, by rw [e0, Res.bind_raise]; congr 1; omega⟩

/-! ### Destination accesses -/

/-- `DstRead` answers the byte below DST_CAP and raises DestOverrun at or past it. -/
theorem dstRead_cases (a : Nat) (s : State) :
    (a < s.dstCap.toNat ∧ dstRead a s = .ok (s.dst.read a) s) ∨
    (s.dstCap.toNat ≤ a ∧ dstRead a s = raise .destOverrun a s) := by
  unfold dstRead
  split
  · exact .inr ⟨‹_›, rfl⟩
  · exact .inl ⟨by omega, rfl⟩

/-- An output byte is written at `writePos` below DST_CAP, and raises DestOverrun(writePos) else. -/
theorem appendByte_cases (v : Byte) (s : State) :
    (s.writePos.toNat < s.dstCap.toNat ∧ appendByte v s =
      .ok () { s with dst := s.dst.write s.writePos.toNat v, writePos := s.writePos + 1 }) ∨
    (s.dstCap.toNat ≤ s.writePos.toNat ∧ appendByte v s = raise .destOverrun s.writePos.toNat s) := by
  unfold appendByte dstWrite
  split
  · exact .inr ⟨‹_›, rfl⟩
  · exact .inl ⟨by omega, rfl⟩

/-! ### The tree array -/

/-- Replacing entry `i` changes the reading of entry `i` and of no other. -/
theorem treeAt_setTree (i j : Nat) (n : Node) (s : State) :
    treeAt (setTree i n s) j = if j = i ∧ i < 511 then n else treeAt s j := by
  simp only [treeAt, setTree_tree, Vector.getElem?_setIfInBounds]
  by_cases hij : i = j
  · subst hij
    by_cases h : i < 511 <;> simp [h]
  · rw [if_neg hij, if_neg (fun h => hij h.1.symm)]

/-- The reading depends on the array alone. -/
theorem treeAt_congr {s t : State} (h : t.tree = s.tree) (i : Nat) : treeAt t i = treeAt s i := by
  rw [treeAt, treeAt, h]

/-! ### ReadBits -/

/-- Everything `ReadBits` can do: its four checks in order (60_exceptions.md R313), or a value of the bits
with `bitPosition` moved past them. -/
theorem readBits_cases (n : Nat) (s : State) :
    (16 < n ∧ readBits n s = raise .bitCountTooLarge n s) ∨
    (n = 0 ∧ readBits n s = .ok 0 s) ∨
    (0 < n ∧ n ≤ 16 ∧ 2 ^ 32 - 1 < s.bitPosition.toNat + n ∧ readBits n s = raise .bitPositionOverflow n s) ∨
    (0 < n ∧ n ≤ 16 ∧ s.bitPosition.toNat + n ≤ 2 ^ 32 - 1 ∧
      ∃ a, s.srcLen.toNat ≤ a ∧ readBits n s = raise .sourceOverrun a s) ∨
    (0 < n ∧ n ≤ 16 ∧ s.bitPosition.toNat + n ≤ 2 ^ 32 - 1 ∧
      s.bitBase.toNat + 2 * (s.bitPosition.toNat / 16) + 1 < s.srcLen.toNat ∧
      ∃ v, readBits n s = .ok v (advance n s)) := by
  unfold readBits
  split
  · exact .inl ⟨‹_›, rfl⟩
  split
  · exact .inr (.inl ⟨‹_›, rfl⟩)
  split
  · exact .inr (.inr (.inl ⟨by omega, by omega, ‹_›, rfl⟩))
  refine .inr (.inr (.inr ?_))
  rcases srcRead16_cases (s.bitBase.toNat + 2 * (s.bitPosition.toNat / 16)) s with ⟨h, e⟩ | ⟨h, e⟩
  · simp only [e, Res.bind_ok]
    split
    · exact .inr ⟨by omega, by omega, by omega, h, _, rfl⟩
    · rcases srcRead16_cases (s.bitBase.toNat + 2 * (s.bitPosition.toNat / 16) + 2) s with ⟨h', e'⟩ | ⟨h', e'⟩
      · exact .inr ⟨by omega, by omega, by omega, h, _, by rw [e', Res.bind_ok]⟩
      · exact .inl ⟨by omega, by omega, by omega, _, le_max_right _ _, by rw [e', Res.bind_raise]⟩
  · simp only [e, Res.bind_raise]
    exact .inl ⟨by omega, by omega, by omega, _, le_max_right _ _, rfl⟩

/-- Reading a code word moves `bitPosition` and nothing else; a failing read then takes the failure entry. -/
theorem fetchTree_cases (t : CodeTree) (s : State) :
    (∃ i p, fetchTree t s = .ok i { s with bitPosition := p }) ∨
    (∃ e n p, fetchTree t s = raise e n { s with bitPosition := p }) := by
  have read : ∀ (n : Nat) (s : State),
      (∃ v p, readBits n s = .ok v { s with bitPosition := p }) ∨ ∃ e k, readBits n s = raise e k s := by
    intro n s
    rcases readBits_cases n s with ⟨_, e⟩ | ⟨_, e⟩ | ⟨_, _, _, e⟩ | ⟨_, _, _, a, _, e⟩ | ⟨_, _, _, _, v, e⟩
    · exact .inr ⟨_, _, e⟩
    · exact .inl ⟨0, s.bitPosition, e⟩
    · exact .inr ⟨_, _, e⟩
    · exact .inr ⟨_, _, e⟩
    · exact .inl ⟨v, _, e⟩
  induction t generalizing s with
  | instr i => exact .inl ⟨i, s.bitPosition, rfl⟩
  | field w mk =>
    rw [fetchTree]
    split
    · exact .inl ⟨mk 0, s.bitPosition, rfl⟩
    · rcases read w s with ⟨v, p, e⟩ | ⟨e, k, h⟩
      · exact .inl ⟨mk v, p, by rw [e, Res.bind_ok]⟩
      · exact .inr ⟨e, k, s.bitPosition, by rw [h, Res.bind_raise]⟩
  | read n k ih =>
    rw [fetchTree]
    rcases read n s with ⟨v, p, e⟩ | ⟨e, m, h⟩
    · rw [e, Res.bind_ok]
      exact ih _ _
    · exact .inr ⟨e, m, s.bitPosition, by rw [h, Res.bind_raise]⟩

/-! ### Meanings' shared operations -/

/-- A run count of 0 ends the block; any other starts the run its sequencer state is for. -/
theorem loadRunCount_cases (r : Word) (s : State) :
    (r = 0 ∧ loadRunCount r s = endCompressedBlock s) ∨
    (r ≠ 0 ∧ s.seq = .litCount ∧
      loadRunCount r s = { s with runRemaining := r, node := 0, seq := .litSymbol }) ∨
    (r ≠ 0 ∧ s.seq ≠ .litCount ∧
      loadRunCount r s = { s with runRemaining := r, lenRead := none, seq := .matchItem }) := by
  unfold loadRunCount
  split
  · exact .inl ⟨‹_›, rfl⟩
  · split
    · exact .inr (.inl ⟨‹_›, ‹_›, rfl⟩)
    · exact .inr (.inr ⟨‹_›, ‹_›, rfl⟩)

/-- A field raises BitCountTooLarge when wider than 16 bits, and is used as it stands else. -/
theorem withField_cases (w : Byte) (v : Half) (s : State) (use : Word → Result) :
    (16 < w.toNat ∧ withField w v s use = .next (takeFailure .bitCountTooLarge w.toNat s)) ∨
    (w.toNat ≤ 16 ∧ withField w v s use = use (v.setWidth 32)) := by
  unfold withField
  split
  · exact .inl ⟨‹_›, rfl⟩
  · exact .inr ⟨by omega, rfl⟩

/-- A guarded meaning runs in its place and stops elsewhere. -/
theorem inSequence_cases (m : String) (here : Bool) (r : Result) :
    (here = true ∧ inSequence m here r = r) ∨
    (here = false ∧ inSequence m here r = .fault (.outOfSequence m)) := by
  cases here
  · exact .inr ⟨rfl, rfl⟩
  · exact .inl ⟨rfl, rfl⟩

/-- A traversal step moves to its child, raises TreeIndexOutOfRange past the tree, or stops where there is
no child. -/
theorem moveTo_cases (next : Option TreeIndex) (s : State) :
    (next = none ∧ moveTo next s = .fault .absentChild) ∨
    (∃ n, next = some n ∧ n.toNat ≤ s.treeSize.toNat ∧ moveTo next s = .next { s with node := n }) ∨
    (∃ n, next = some n ∧ s.treeSize.toNat < n.toNat ∧
      moveTo next s = .next (takeFailure .treeIndexOutOfRange n.toNat s)) := by
  cases next with
  | none => exact .inl ⟨rfl, rfl⟩
  | some n =>
    refine .inr ?_
    unfold moveTo
    by_cases h : s.treeSize.toNat < n.toNat
    · exact .inr ⟨n, rfl, h, by simp [h]⟩
    · exact .inl ⟨n, rfl, by omega, by simp [h]⟩

/-- Building a node reads its byte and writes its entry, or raises SourceOverrun. -/
theorem buildNode_cases (flag : Bool) (s : State) :
    (15 + s.buildIndex.toNat < s.srcLen.toNat ∧
      buildNode flag s = .ok () { setTree s.buildIndex.toNat
        (storedNode (leafBit s.leafRule s.ch.huffmanTreeByteLength flag (s.src.read (15 + s.buildIndex.toNat)))
          (s.src.read (15 + s.buildIndex.toNat))) s with buildIndex := s.buildIndex + 1 }) ∨
    (s.srcLen.toNat ≤ 15 + s.buildIndex.toNat ∧
      buildNode flag s = raise .sourceOverrun (15 + s.buildIndex.toNat) s) := by
  unfold buildNode
  rcases srcRead_cases (15 + s.buildIndex.toNat) s with ⟨h, e⟩ | ⟨h, e⟩
  · exact .inl ⟨h, by simp only [e, Res.bind_ok]⟩
  · exact .inr ⟨h, by simp only [e, Res.bind_raise]⟩

/-- A literal is written and counted, or raises DestOverrun(writePos). -/
theorem emitLiteral_cases (s : State) :
    (s.writePos.toNat < s.dstCap.toNat ∧ emitLiteral s = .ok () { s with
      dst := s.dst.write s.writePos.toNat (treeAt s s.node.toNat).value, writePos := s.writePos + 1,
      runRemaining := s.runRemaining - 1, node := 0,
      seq := if s.runRemaining - 1 = 0 then .matchCount else .litSymbol }) ∨
    (s.dstCap.toNat ≤ s.writePos.toNat ∧ emitLiteral s = raise .destOverrun s.writePos.toNat s) := by
  unfold emitLiteral
  rcases appendByte_cases (treeAt s s.node.toNat).value s with ⟨h, e⟩ | ⟨h, e⟩
  · exact .inl ⟨h, by rw [e, Res.bind_ok]⟩
  · exact .inr ⟨h, by rw [e, Res.bind_raise]⟩

/-- A stored block's step copies the next byte, raises from the read or then the write, or frames. -/
theorem stepStored_cases (s : State) :
    (s.bh.uncompressedLength.toNat ≤ s.storedIndex.toNat ∧ stepStored s = .ok () (endStoredBlock s)) ∨
    (s.storedIndex.toNat < s.bh.uncompressedLength.toNat ∧
      s.srcLen.toNat ≤ s.blockStart.toNat + 4 + s.storedIndex.toNat ∧
      stepStored s = raise .sourceOverrun (s.blockStart.toNat + 4 + s.storedIndex.toNat) s) ∨
    (s.storedIndex.toNat < s.bh.uncompressedLength.toNat ∧
      s.blockStart.toNat + 4 + s.storedIndex.toNat < s.srcLen.toNat ∧ s.dstCap.toNat ≤ s.writePos.toNat ∧
      stepStored s = raise .destOverrun s.writePos.toNat s) ∨
    (s.storedIndex.toNat < s.bh.uncompressedLength.toNat ∧
      s.blockStart.toNat + 4 + s.storedIndex.toNat < s.srcLen.toNat ∧ s.writePos.toNat < s.dstCap.toNat ∧
      stepStored s = .ok () { s with
        dst := s.dst.write s.writePos.toNat (s.src.read (s.blockStart.toNat + 4 + s.storedIndex.toNat)),
        writePos := s.writePos + 1, storedIndex := s.storedIndex + 1 }) := by
  unfold stepStored
  split
  · rcases srcRead_cases (s.blockStart.toNat + 4 + s.storedIndex.toNat) s with ⟨h, e⟩ | ⟨h, e⟩
    · rw [e, Res.bind_ok]
      rcases appendByte_cases (s.src.read (s.blockStart.toNat + 4 + s.storedIndex.toNat)) s with ⟨h', e'⟩ | ⟨h', e'⟩
      · exact .inr (.inr (.inr ⟨‹_›, h, h', by rw [e', Res.bind_ok]⟩))
      · exact .inr (.inr (.inl ⟨‹_›, h, h', by rw [e', Res.bind_raise]⟩))
    · exact .inr (.inl ⟨‹_›, h, by rw [e, Res.bind_raise]⟩)
  · exact .inl ⟨by omega, rfl⟩

/-- A copy's step ends the match, raises in the order of 60_exceptions.md R314, or copies one byte. -/
theorem stepCopy_cases (s : State) :
    (s.matchRemaining = 0 ∧ stepCopy s = .ok () (endMatch s)) ∨
    (s.matchRemaining ≠ 0 ∧ s.writePos.toNat < s.matchDistance.toNat ∧
      stepCopy s = raise .backrefBeforeStart s.matchDistance.toNat s) ∨
    (s.matchRemaining ≠ 0 ∧ s.matchDistance.toNat ≤ s.writePos.toNat ∧
      s.dstCap.toNat ≤ s.writePos.toNat - s.matchDistance.toNat ∧
      stepCopy s = raise .destOverrun (s.writePos.toNat - s.matchDistance.toNat) s) ∨
    (s.matchRemaining ≠ 0 ∧ s.matchDistance.toNat ≤ s.writePos.toNat ∧
      s.writePos.toNat - s.matchDistance.toNat < s.dstCap.toNat ∧ s.dstCap.toNat ≤ s.writePos.toNat ∧
      stepCopy s = raise .destOverrun s.writePos.toNat s) ∨
    (s.matchRemaining ≠ 0 ∧ s.matchDistance.toNat ≤ s.writePos.toNat ∧ s.writePos.toNat < s.dstCap.toNat ∧
      stepCopy s = .ok () { s with
        dst := s.dst.write s.writePos.toNat (s.dst.read (s.writePos.toNat - s.matchDistance.toNat)),
        writePos := s.writePos + 1, matchRemaining := s.matchRemaining - 1 }) := by
  unfold stepCopy
  split
  · exact .inl ⟨‹_›, rfl⟩
  split
  · exact .inr (.inl ⟨‹_›, ‹_›, rfl⟩)
  refine .inr (.inr ?_)
  rcases dstRead_cases (s.writePos.toNat - s.matchDistance.toNat) s with ⟨h, e⟩ | ⟨h, e⟩
  · rw [e, Res.bind_ok]
    rcases appendByte_cases (s.dst.read (s.writePos.toNat - s.matchDistance.toNat)) s with ⟨h', e'⟩ | ⟨h', e'⟩
    · exact .inr (.inr ⟨‹_›, by omega, h', by rw [e', Res.bind_ok]⟩)
    · exact .inr (.inl ⟨‹_›, by omega, h, h', by rw [e', Res.bind_raise]⟩)
  · exact .inl ⟨‹_›, by omega, h, by rw [e, Res.bind_raise]⟩

end Sys2Proof.Machine
end

