-- ==== Sys2Proof/Laws/PerInstr.lean ====
section
/-! SUPPORT. Laws/PerInstr.lean: the family CodeLength, one lemma per instruction. -/

namespace Sys2Proof

/-- The fixed bits of a code word (30_encoding.md R149, column prefix_len). -/
def Laws.prefixBits : Instr → Nat
  | .lrBase0 | .huf0 | .huf1 | .tf0 | .tf1 => 1
  | .mcBase0 | .of0 _ | .of1 _ | .of2 _ | .of3 _ => 2
  | .lrBase1 | .lrExt1 _ | .lrExt2 _ | .lrExt3 _ | .mcFb1 | .mcFb2 | .mcFb3 | .mcExt1 _ | .mcExt2 _
  | .mcExt3 _ => 3
  | .blockStored _ | .blockCompressed _ _ | .container | .cmdStart _ => 32

/-- Code lengths (30_encoding.md R147): the prefix, then the field the block header sizes. -/
def Laws.CodeLength.Statement (i : Instr) : Prop :=
  ∀ bh : BlockHeader, (encode bh i).length = Laws.prefixBits i + (i.fieldWidth bh).getD 0

theorem Laws.CodeLength.lrBase0 : Laws.CodeLength.Statement .lrBase0 := fun _ => rfl
theorem Laws.CodeLength.lrBase1 : Laws.CodeLength.Statement .lrBase1 := fun _ => rfl
theorem Laws.CodeLength.mcBase0 : Laws.CodeLength.Statement .mcBase0 := fun _ => rfl
theorem Laws.CodeLength.mcFb1 : Laws.CodeLength.Statement .mcFb1 := fun _ => rfl
theorem Laws.CodeLength.mcFb2 : Laws.CodeLength.Statement .mcFb2 := fun _ => rfl
theorem Laws.CodeLength.mcFb3 : Laws.CodeLength.Statement .mcFb3 := fun _ => rfl
theorem Laws.CodeLength.huf0 : Laws.CodeLength.Statement .huf0 := fun _ => rfl
theorem Laws.CodeLength.huf1 : Laws.CodeLength.Statement .huf1 := fun _ => rfl
theorem Laws.CodeLength.tf0 : Laws.CodeLength.Statement .tf0 := fun _ => rfl
theorem Laws.CodeLength.tf1 : Laws.CodeLength.Statement .tf1 := fun _ => rfl
theorem Laws.CodeLength.container : Laws.CodeLength.Statement .container := fun _ => rfl

theorem Laws.CodeLength.blockStored (u : Half) : Laws.CodeLength.Statement (.blockStored u) := fun _ => rfl

theorem Laws.CodeLength.blockCompressed (u c : Half) : Laws.CodeLength.Statement (.blockCompressed u c) :=
  fun _ => rfl

theorem Laws.CodeLength.cmdStart (p : Bool) : Laws.CodeLength.Statement (.cmdStart p) := fun _ => rfl

/-- A prefix followed by a field has the length of both. -/
theorem Laws.length_encodeField (pre : List Bool) (w : Byte) (v : Half) :
    (encodeField pre w v).length = pre.length + w.toNat := by
  simp [encodeField, Code.length]

theorem Laws.CodeLength.lrExt1 (v : Half) : Laws.CodeLength.Statement (.lrExt1 v) :=
  fun _ => Laws.length_encodeField _ _ v
theorem Laws.CodeLength.lrExt2 (v : Half) : Laws.CodeLength.Statement (.lrExt2 v) :=
  fun _ => Laws.length_encodeField _ _ v
theorem Laws.CodeLength.lrExt3 (v : Half) : Laws.CodeLength.Statement (.lrExt3 v) :=
  fun _ => Laws.length_encodeField _ _ v
theorem Laws.CodeLength.mcExt1 (v : Half) : Laws.CodeLength.Statement (.mcExt1 v) :=
  fun _ => Laws.length_encodeField _ _ v
theorem Laws.CodeLength.mcExt2 (v : Half) : Laws.CodeLength.Statement (.mcExt2 v) :=
  fun _ => Laws.length_encodeField _ _ v
theorem Laws.CodeLength.mcExt3 (v : Half) : Laws.CodeLength.Statement (.mcExt3 v) :=
  fun _ => Laws.length_encodeField _ _ v
theorem Laws.CodeLength.of0 (d : Half) : Laws.CodeLength.Statement (.of0 d) :=
  fun _ => Laws.length_encodeField _ _ d
theorem Laws.CodeLength.of1 (d : Half) : Laws.CodeLength.Statement (.of1 d) :=
  fun _ => Laws.length_encodeField _ _ d
theorem Laws.CodeLength.of2 (d : Half) : Laws.CodeLength.Statement (.of2 d) :=
  fun _ => Laws.length_encodeField _ _ d
theorem Laws.CodeLength.of3 (d : Half) : Laws.CodeLength.Statement (.of3 d) :=
  fun _ => Laws.length_encodeField _ _ d

end Sys2Proof
end

