-- ==== Sys2Proof/Tests/Slice0.lean ====
section
/-! SUPPORT. Tests/Slice0.lean: the model's own tests. Expected results are the vectors of
95_test_vectors.md, named in each comment, or worked out by hand from the rule named. The second half shows,
for each statement with hypotheses, a concrete state that meets them all. -/

namespace Sys2Proof.Tests

open Sys2Proof.Machine

/-! ### Well-formedness: each check refuses an ill-formed term -/

/-- The standard block tables TB of 95_test_vectors.md. -/
def tables : BlockHeader :=
  { uncompressedLength := 8, compressedLength := 28, matchLengthBaseTable := #v[3, 4, 5, 6],
    offsetCodeBitLengths := #v[1, 2, 4, 8], matchLengthCodeBitLengths := #v[3, 4, 5],
    runLengthCodeBitLengths := #v[2, 4, 8], runLengthBaseTable := #v[1, 0] }

/-- TB with `rlbits[2]`, `mlbits[2]` and `ofbits[3]` 17 (F3 of 95_test_vectors.md for the first). -/
def wideTables : BlockHeader :=
  { tables with
    offsetCodeBitLengths := #v[1, 2, 4, 17], matchLengthCodeBitLengths := #v[3, 4, 17],
    runLengthCodeBitLengths := #v[2, 4, 17] }

theorem test_wf_field_fits : (Instr.lrExt1 3).wf tables = true := by decide
theorem test_wf_refuses_large_value : (Instr.lrExt1 4).wf tables = false := by decide
theorem test_wf_refuses_large_length : (Instr.mcExt2 16).wf tables = false := by decide
theorem test_wf_refuses_large_distance : (Instr.of0 2).wf tables = false := by decide
theorem test_wf_refuses_wide_field : (Instr.lrExt3 0).wf wideTables = false := by decide
theorem test_wf_refuses_zero_compressed : (Instr.blockCompressed 8 0).wf tables = false := by decide

/-! ### Decoding: every code word of R149, written out from its encoding -/

/-- A bit string of R19: consumption order, 1 for true. -/
def bits (l : List Nat) : Code := .bits (l.map (· == 1))

/-- The instruction of format `f` at the front of a code, under TB. -/
def decoded (f : Format) (c : Code) : Option Instr := (decode f tables c).toOption.map Prod.fst

theorem test_decode_lr_base0 : decoded .lr (bits [1]) = some .lrBase0 := by decide
theorem test_decode_lr_base1 : decoded .lr (bits [0, 0, 0]) = some .lrBase1 := by decide
/-- RL3 -/
theorem test_decode_lr_ext1 : decoded .lr (bits [0, 0, 1, 1, 0]) = some (.lrExt1 2) := by decide
/-- RL4 -/
theorem test_decode_lr_ext2 : decoded .lr (bits [0, 1, 0, 1, 0, 0, 1]) = some (.lrExt2 9) := by decide
/-- RL5 -/
theorem test_decode_lr_ext3 :
    decoded .lr (bits [0, 1, 1, 1, 1, 0, 0, 1, 0, 0, 0]) = some (.lrExt3 200) := by decide
theorem test_decode_mc_base0 : decoded .mc (bits [0, 0]) = some .mcBase0 := by decide
theorem test_decode_mc_fb1 : decoded .mc (bits [0, 1, 0]) = some .mcFb1 := by decide
theorem test_decode_mc_fb2 : decoded .mc (bits [1, 0, 0]) = some .mcFb2 := by decide
theorem test_decode_mc_fb3 : decoded .mc (bits [1, 1, 0]) = some .mcFb3 := by decide
/-- MC5 -/
theorem test_decode_mc_ext1 : decoded .mc (bits [0, 1, 1, 1, 0, 1]) = some (.mcExt1 5) := by decide
/-- MC6 -/
theorem test_decode_mc_ext2 : decoded .mc (bits [1, 0, 1, 1, 1, 0, 0]) = some (.mcExt2 12) := by decide
/-- MC7 -/
theorem test_decode_mc_ext3 : decoded .mc (bits [1, 1, 1, 1, 1, 1, 1, 1]) = some (.mcExt3 31) := by decide
/-- OF1 -/
theorem test_decode_of0 : decoded .off (bits [0, 0, 1]) = some (.of0 1) := by decide
/-- OF2 -/
theorem test_decode_of1 : decoded .off (bits [0, 1, 1, 0]) = some (.of1 2) := by decide
/-- OF3 -/
theorem test_decode_of2 : decoded .off (bits [1, 0, 1, 0, 1, 0]) = some (.of2 10) := by decide
/-- OF4 -/
theorem test_decode_of3 : decoded .off (bits [1, 1, 1, 1, 0, 0, 1, 0, 0, 0]) = some (.of3 200) := by decide
theorem test_decode_huf0 : decoded .huf (bits [0]) = some .huf0 := by decide
theorem test_decode_huf1 : decoded .huf (bits [1]) = some .huf1 := by decide
theorem test_decode_tf0 : decoded .tf (bits [0]) = some .tf0 := by decide
theorem test_decode_tf1 : decoded .tf (bits [1]) = some .tf1 := by decide
/-- P1's block header `05 00 00 00` -/
theorem test_decode_block_stored :
    decodeBytes .block tables [0x05, 0x00, 0x00, 0x00] = .ok (.blockStored 5) := by decide
/-- P2's block header `08 00 1C 00` -/
theorem test_decode_block_compressed :
    decodeBytes .block tables [0x08, 0x00, 0x1C, 0x00] = .ok (.blockCompressed 8 28) := by decide
/-- E1 -/
theorem test_decode_container :
    decodeBytes .container tables [0x59, 0x4A, 0x5F, 0x31] = .ok .container := by decide
/-- X3 -/
theorem test_decode_container_swapped :
    decodeBytes .container tables [0x31, 0x5F, 0x4A, 0x59] = .error .badSignature := by decide
/-- R353: CTRL = 3 -/
theorem test_decode_start : decode .hostreg tables (.word 3) = .ok (.cmdStart true, []) := by decide
/-- R32: reserved bits are ignored; X1: CTRL = 1 -/
theorem test_decode_start_reserved_ignored :
    decode .hostreg tables (.word 0xFFFFFFFD) = .ok (.cmdStart false, []) := by decide
/-- R32: writing 0 to START does nothing -/
theorem test_decode_no_start : decode .hostreg tables (.word 2) = .error .noCommand := by decide
/-- The stream ends inside the field. -/
theorem test_decode_truncated : decode .lr tables (bits [0, 1, 1, 1]) = .error .truncated := by decide
/-- R84: P2's first bits `00110010` come from byte 1 of `BA 32`. -/
theorem test_stream_order :
    (streamBits [0xBA, 0x32]).take 8 = [false, false, true, true, false, false, true, false] := by decide
theorem test_table_word_stored : decodeTableWord 32 0x00000005 = some (.blockStored 5) := by decide
theorem test_table_word_start : decodeTableWord 32 0x00000001 = some (.cmdStart false) := by decide

/-! ### Steps on small states -/

/-- The tree T2 of 95_test_vectors.md, in the first five entries. -/
def treeT2 : Vector Node 511 :=
  ((((Vector.replicate 511 Node.blank).set 0 rootNode).set 1 (storedNode true 0x41)).set 2
    (storedNode false 0x01) |>.set 3 (storedNode true 0x42)).set 4 (storedNode true 0x43)

/-- A compressed block 0 of 1 under TB and T2 in sequencer state `q`, its region at offset 0 of a source of
these bytes, the destination empty with room for 8 bytes. -/
def inBlockAt (q : Seq) (bytes : List Byte) : State :=
  { State.reset with
    seq := q, src := Memory.writeBytes [] 0 bytes, srcLen := BitVec.ofNat 32 bytes.length, dstCap := 8,
    ch := { ContainerHeader.zero with blockCount := 1, huffmanTreeByteLength := 2 },
    bh := tables, tree := treeT2, treeSize := 4 }

/-- One field of the next state. -/
def fieldOf {α : Type} (f : State → α) (r : Result) : Option α :=
  match r with
  | .next s => some (f s)
  | .fault _ | .refused _ => none

/-- RL1: LR.BASE0 gives 1. -/
theorem test_lr_base0 :
    fieldOf (fun t => (t.runRemaining, t.bitPosition, t.seq)) (step (inBlockAt .litCount [0x00, 0x80])) =
      some (1, 1, .litSymbol) := by decide
/-- RL2: LR.BASE1 gives 0, which ends the block. -/
theorem test_lr_base1_ends :
    fieldOf (fun t => (t.blockStart, t.blockIndex, t.seq)) (step (inBlockAt .litCount [0x00, 0x00])) =
      some (28, 1, .finish) := by decide
/-- RL3: LR.EXT1 gives 2 in 5 bits; here in the match phase. -/
theorem test_lr_ext1 :
    fieldOf (fun t => (t.runRemaining, t.bitPosition, t.seq)) (step (inBlockAt .matchCount [0x00, 0x30])) =
      some (2, 5, .matchItem) := by decide
/-- RL4: LR.EXT2 gives 9 in 7 bits. -/
theorem test_lr_ext2 :
    fieldOf (fun t => (t.runRemaining, t.bitPosition)) (step (inBlockAt .litCount [0x00, 0x52])) =
      some (9, 7) := by decide
/-- RL5: LR.EXT3 gives 200 in 11 bits, across the two bytes of a word. -/
theorem test_lr_ext3 :
    fieldOf (fun t => (t.runRemaining, t.bitPosition)) (step (inBlockAt .litCount [0x00, 0x79])) =
      some (200, 11) := by decide
/-- RL7: width 17 raises BitCountTooLarge(17) after 3 bits. -/
theorem test_lr_ext3_wide :
    fieldOf (fun t => (t.code, t.faultAddr, t.faultBitpos))
      (step { inBlockAt .litCount [0x00, 0x60] with bh := wideTables }) = some (0x14, 17, 3) := by decide
/-- MC1 -/
theorem test_mc_base0 :
    fieldOf (fun t => (t.lenRead, t.bitPosition)) (step (inBlockAt .matchItem [0x00, 0x00])) =
      some (some 3, 2) := by decide
/-- MC2 under SELECTOR -/
theorem test_mc_fb1_selector :
    fieldOf (fun t => (t.lenRead, t.bitPosition))
      (step { inBlockAt .matchItem [0x00, 0x40] with matchFallback := .selector }) = some (some 4, 3) := by
  decide
/-- MC3 under BASE0 -/
theorem test_mc_fb2 :
    fieldOf (fun t => t.lenRead) (step (inBlockAt .matchItem [0x00, 0x80])) = some (some 3) := by decide
/-- MC4 under SELECTOR -/
theorem test_mc_fb3_selector :
    fieldOf (fun t => t.lenRead)
      (step { inBlockAt .matchItem [0x00, 0xC0] with matchFallback := .selector }) = some (some 6) := by decide
/-- MC5 -/
theorem test_mc_ext1 :
    fieldOf (fun t => (t.lenRead, t.bitPosition)) (step (inBlockAt .matchItem [0x00, 0x74])) =
      some (some 5, 6) := by decide
/-- MC6 -/
theorem test_mc_ext2 :
    fieldOf (fun t => (t.lenRead, t.bitPosition)) (step (inBlockAt .matchItem [0x00, 0xB8])) =
      some (some 12, 7) := by decide
/-- MC7 -/
theorem test_mc_ext3 :
    fieldOf (fun t => (t.lenRead, t.bitPosition)) (step (inBlockAt .matchItem [0x00, 0xFF])) =
      some (some 31, 8) := by decide

/-- A match of length 3 whose offset code word is next. -/
def atOffset (bytes : List Byte) : State := { inBlockAt .matchItem bytes with lenRead := some 3 }

/-- OF1 -/
theorem test_of0 :
    fieldOf (fun t => (t.matchDistance, t.matchRemaining, t.bitPosition)) (step (atOffset [0x00, 0x20])) =
      some (1, 3, 3) := by decide
/-- OF2 -/
theorem test_of1 :
    fieldOf (fun t => (t.matchDistance, t.seq)) (step (atOffset [0x00, 0x60])) = some (2, .matchCopy) := by
  decide
/-- OF3 -/
theorem test_of2 :
    fieldOf (fun t => (t.matchDistance, t.bitPosition)) (step (atOffset [0x00, 0xA8])) = some (10, 6) := by
  decide
/-- OF4 -/
theorem test_of3 :
    fieldOf (fun t => (t.matchDistance, t.bitPosition)) (step (atOffset [0x00, 0xF2])) = some (200, 10) := by
  decide
/-- HT1: bit `0` moves to node 1. -/
theorem test_huf0 :
    fieldOf (fun t => (t.node, t.bitPosition)) (step (inBlockAt .litSymbol [0x00, 0x00])) = some (1, 1) := by
  decide
/-- HT3: the second bit of `11` moves from node 2 to node 4. -/
theorem test_huf1 :
    fieldOf (fun t => t.node) (step { inBlockAt .litSymbol [0x00, 0x80] with node := 2 }) = some 4 := by
  decide
/-- HT9: with L = 0 bit `1` leads to index 2. -/
theorem test_huf1_out_of_tree :
    fieldOf (fun t => (t.code, t.faultAddr, t.faultBitpos))
      (step { inBlockAt .litSymbol [0x00, 0x80] with treeSize := 0 }) = some (0x13, 2, 1) := by decide

/-- T2 being built: node `i` next, the node bytes at 16 and the flags at 20. -/
def buildingAt (i : Nat) : State :=
  { inBlockAt .buildTree (List.replicate 16 0 ++ [0x41, 0x01, 0x42, 0x43, 0x00, 0x40]) with
    bitBase := 20, bitPosition := BitVec.ofNat 32 (i - 1), buildIndex := BitVec.ofNat 10 i,
    tree := Vector.replicate 511 Node.blank }

/-- R184's example: node 1, flag 0, becomes leaf 0x41. -/
theorem test_tf0 :
    fieldOf (fun t => (treeAt t 1, t.buildIndex)) (step (buildingAt 1)) =
      some ({ isLeaf := true, value := 0x41, left := none, right := none }, 2) := by decide
/-- R185's example: node 2, flag 1, becomes internal with children 3 and 4. -/
theorem test_tf1 :
    fieldOf (fun t => (treeAt t 2, t.bitPosition)) (step (buildingAt 2)) =
      some ({ isLeaf := false, value := 0x01, left := some 3, right := some 4 }, 2) := by decide
/-- P1's block: STORED_COPY of 5 bytes. -/
theorem test_block_stored :
    fieldOf (fun t => (t.seq, t.bh.uncompressedLength)) (step (inBlockAt .blockHeader [0x05, 0, 0, 0])) =
      some (.storedCopy, 5) := by decide

/-- P2's 24 header bytes. -/
def headerP2 : List Byte :=
  [0x08, 0x00, 0x1C, 0x00, 0x03, 0x00, 0x04, 0x00, 0x05, 0x00, 0x06, 0x00, 0x01, 0x02, 0x04, 0x08,
   0x03, 0x04, 0x05, 0x02, 0x04, 0x08, 0x01, 0x00]

/-- P2's block header gives TB and the region after it. -/
theorem test_block_compressed :
    fieldOf (fun t => (t.bh, t.bitBase, t.seq))
      (step { inBlockAt .blockHeader headerP2 with bh := BlockHeader.zero }) =
      some (tables, 24, .litCount) := by decide

/-- P1's container header. -/
def headerP1 : List Byte :=
  [0x59, 0x4A, 0x5F, 0x31, 0x05, 0x00, 0x00, 0x00, 0x1F, 0x00, 0x00, 0x00, 0x01, 0x00, 0x00, 0x02]

/-- The container P1 being validated. -/
def validating (bytes : List Byte) : State := { inBlockAt .validate bytes with srcPresent := true }

theorem test_container :
    fieldOf (fun t => (t.ch.uncompressedLength, t.ch.huffmanTreeByteLength, t.seq)) (step (validating headerP1)) =
      some (5, 2, .buildTree) := by decide
/-- X5: capacity 4 is too small for 5. -/
theorem test_container_too_small :
    fieldOf (fun t => (t.code, t.faultAddr)) (step { validating headerP1 with dstCap := 4 }) =
      some (0x03, 0) := by decide
/-- R353: the CTRL write 3 starts a decode. -/
theorem test_start :
    fieldOf (fun t => (t.seq, t.srcPresent, statusWord t))
      (step { State.reset with pending := [{ after := 0, act := .writeReg 0 3 }] }) =
      some (.validate, true, 1) := by decide
/-- X18: a START while BUSY is ignored. -/
theorem test_start_busy :
    fieldOf (fun t => (t.seq, t.srcPresent))
      (step { inBlockAt .litCount [] with pending := [{ after := 0, act := .writeReg 0 3 }] }) =
      some (.litCount, false) := by decide

/-- P2's match (length 5, distance 2) over `41 42`, at its third byte. -/
def copying : State :=
  { inBlockAt .matchCopy [] with
    dst := [(0, 0x41), (1, 0x42), (2, 0x41), (3, 0x42)], writePos := 4, runRemaining := 1,
    matchRemaining := 3, matchDistance := 2 }

/-- CP1 -/
theorem test_copy_step :
    fieldOf (fun t => (t.dst.read 4, t.writePos, t.matchRemaining)) (step copying) = some (0x41, 5, 2) := by
  decide
/-- CP4 -/
theorem test_copy_before_start :
    fieldOf (fun t => (t.code, t.faultAddr)) (step { copying with writePos := 1, matchDistance := 3 }) =
      some (0x12, 3) := by decide
/-- The placed table word is the instruction the very next step fetches (R142: MC.FB2). -/
theorem test_with_fetch_word :
    fieldOf (fun t => t.lenRead) (step (State.reset.withFetchWord 8 4)) = some (some 0) := by decide

/-! ### Witnesses: the hypotheses of each statement hold somewhere -/

/-- A reset one step away: the engine's step answers a next state, and, at a tree no decode built, the fault
`absentChild`. -/
theorem witness_StepBeforeHostActionIsEngineStep :
    let ev : HostEvent := { after := 1, act := .reset }
    let s := { inBlockAt .litCount [0x00, 0x80] with pending := [ev] }
    let t := { inBlockAt .litSymbol [0x00, 0x80] with pending := [ev], tree := Vector.replicate 511 Node.blank }
    s.pending = ev :: [] ∧ t.pending = ev :: [] ∧ ev.after = 0 + 1 ∧
      fieldOf (·.runRemaining) (step { s with pending := [] }) = some 1 ∧
      (match step { t with pending := [] } with
        | .fault x => some x
        | _ => none) = some .absentChild := by decide

/-- RL3 runs. TC5's form, LR.EXT3 after its prefix, and the last bit position: the reads that fail. -/
theorem witness_StepRunsCodeWordOfStream :
    let s := inBlockAt .litCount [0x00, 0x30]
    let wide := { inBlockAt .litCount [0x00, 0x60] with bh := wideTables }
    let last := { s with bitPosition := 0xFFFFFFFF }
    let short := { inBlockAt .litCount [0x01, 0x00] with bitPosition := 13, bh := tables }
    let cut := { buildingAt 1 with srcLen := 21 }
    (s.pending = [] ∧ formatDue s = some .lr ∧ readable s 5 ∧
      decode .lr s.bh (.bits (streamFrom s 5)) = .ok (.lrExt1 2, [])) ∧
    (formatDue wide = some .lr ∧ readable wide 3 ∧ nextRead .lr wide.bh (streamFrom wide 3) = some 17) ∧
    (nextRead .lr last.bh (streamFrom last 0) = some 1 ∧ 2 ^ 32 - 1 < last.bitPosition.toNat + 1) ∧
    (formatDue short = some .lr ∧ readable short 3 ∧ nextRead .lr short.bh (streamFrom short 3) = some 2 ∧
      short.srcLen.toNat ≤ short.bitBase.toNat + 2 * ((short.bitPosition.toNat + 3 + 2 - 1) / 16) + 1) ∧
    (cut.pending = [] ∧ formatDue cut = some .tf ∧ nextRead .tf cut.bh (streamFrom cut 0) = some 1 ∧
      cut.srcLen.toNat = cut.bitBase.toNat + 2 * (cut.bitPosition.toNat / 16) + 1) := by decide

/-- Both kinds. -/
theorem witness_StepRunsBlockKind :
    let s := inBlockAt .blockHeader headerP2
    let t := inBlockAt .blockHeader [0x05, 0, 0, 0]
    s.pending = [] ∧ s.blockStart.toNat + 3 < s.srcLen.toNat ∧ s.src.read 2 = 0x1C ∧
      t.blockStart.toNat + 3 < t.srcLen.toNat ∧ t.src.read 2 = 0 := by decide

theorem witness_StartWriteRunsStart :
    ({ State.reset with pending := [{ after := 0, act := .writeReg 0 3 }] } : State).pending =
      [{ after := 0, act := .writeReg 0 3 }] ∧ (3 : Word).getLsbD 0 = true := by decide

/-- A bit format at the greatest value of its field, and a word format. -/
theorem witness_DecodeEncodeRoundTrip :
    (Instr.of3 255).wf tables = true ∧ (Instr.blockCompressed 0 1).wf tables = true := by decide

theorem witness_EncodeDecodeRoundTrip :
    decode .lr tables (bits [0, 0, 1, 1, 0]) = .ok (.lrExt1 2, []) ∧ (Instr.lrExt1 2).wf tables = true := by
  decide

theorem witness_EveryBitPatternDecodes :
    (codeOfFormat tables .mc).isSome = true ∧ 19 ≤ (List.replicate 19 false).length := by decide

/-- Both clauses, at the boundary of the mask. -/
theorem witness_BlockWordKindIsItsHighHalf :
    (0x0000FFFF : Word) &&& 0xFFFF0000 = 0 ∧ (0x00010000 : Word) &&& 0xFFFF0000 ≠ 0 := by decide

/-- BC8 and BC1: a read that straddles and one that fits. -/
theorem witness_ReadBitsReturnsStreamBits :
    let s := inBlockAt .litCount [0x34, 0x12, 0x78, 0x56]
    readable { s with bitPosition := 15 } 16 ∧ readable s 16 ∧ readable s 1 := by decide

theorem witness_SplitReadsAgree :
    readable (inBlockAt .litCount [0x34, 0x12, 0x78, 0x56]) (3 + 13) := by decide

/-- The three clauses, each at its boundary (BC14 for the third). -/
theorem witness_ReadBitsChecksCount :
    let s := { inBlockAt .litCount [0x34, 0x12] with bitPosition := 0xFFFFFFF8 }
    16 < 17 ∧ (0 : Nat) = 0 ∧ 0 < 8 ∧ 8 ≤ 16 ∧ 2 ^ 32 - 1 < s.bitPosition.toNat + 8 ∧ ¬ 2 ^ 32 - 1 < s.bitPosition.toNat + 7 := by decide

/-- BC11 -/
theorem witness_ReadBitsOverrunsAtLowestOffset :
    let s := { inBlockAt .litCount [0x34, 0x12, 0x78, 0x56] with bitPosition := 17 }
    s.bitPosition.toNat + 16 ≤ 2 ^ 32 - 1 ∧
      s.srcLen.toNat ≤ s.bitBase.toNat + 2 * ((s.bitPosition.toNat + 16 - 1) / 16) + 1 := by decide

/-- A count of 0, a base and a field. -/
theorem witness_LiteralRunCountLoads :
    let s := inBlockAt .litCount []
    s.seq = .litCount ∧ runValue s .lrBase0 = some 1 ∧ runValue s .lrBase1 = some 0 ∧
      runValue s (.lrExt1 3) = some 3 ∧ runValue s (.lrExt2 15) = some 15 ∧ runValue s (.lrExt3 255) = some 255 := by
  decide

theorem witness_MatchRunCountLoads :
    let s := inBlockAt .matchCount []
    s.seq = .matchCount ∧ runValue s .lrBase0 = some 1 ∧ runValue s .lrBase1 = some 0 ∧
      runValue s (.lrExt1 3) = some 3 ∧ runValue s (.lrExt2 15) = some 15 ∧ runValue s (.lrExt3 255) = some 255 := by
  decide

theorem witness_MatchLengthLoads :
    let s := inBlockAt .matchItem []
    s.seq = .matchItem ∧ s.lenRead = none ∧ lengthValue s .mcBase0 = some 3 ∧ lengthValue s .mcFb1 = some 3 ∧
      lengthValue s .mcFb2 = some 3 ∧ lengthValue s .mcFb3 = some 3 ∧ lengthValue s (.mcExt1 7) = some 7 ∧
      lengthValue s (.mcExt2 0) = some 0 ∧ lengthValue s (.mcExt3 31) = some 31 := by decide

theorem witness_MatchOffsetLoads :
    let s := atOffset []
    s.seq = .matchItem ∧ s.lenRead = some 3 ∧ distanceValue s (.of0 1) = some 1 ∧
      distanceValue s (.of1 3) = some 3 ∧ distanceValue s (.of2 0) = some 0 ∧
      distanceValue s (.of3 255) = some 255 := by decide

/-- One code word of each format, at the least illegal width. -/
theorem witness_WideFieldRaises :
    let s := { inBlockAt .litCount [] with bh := wideTables }
    formatDue s = some (Instr.lrExt3 0).format ∧ (Instr.lrExt3 0).fieldWidth s.bh = some 17 ∧
      formatDue { s with seq := .matchItem } = some (Instr.mcExt3 0).format ∧
      (Instr.mcExt3 0).fieldWidth s.bh = some 17 ∧
      formatDue { s with seq := .matchItem, lenRead := some 3 } = some (Instr.of3 0).format ∧
      (Instr.of3 0).fieldWidth s.bh = some 17 := by decide

/-- At node 2 of T2 both children are in the tree, the right one the last. -/
theorem witness_TraversalMovesToChild :
    let s := { inBlockAt .litSymbol [] with node := 2 }
    let e := treeAt s s.node.toNat
    s.seq = .litSymbol ∧ e.isLeaf = false ∧ nodeOk e = true ∧ 2 * e.value.toNat + 1 ≤ s.treeSize.toNat ∧
      2 * e.value.toNat + 2 = s.treeSize.toNat := by decide

/-- At the root with L = 0 (HT8, HT9) both children are past the tree, the left one the first past it. -/
theorem witness_TraversalPastTreeRaises :
    let s := { inBlockAt .litSymbol [] with treeSize := 0 }
    let e := treeAt s s.node.toNat
    s.seq = .litSymbol ∧ e.isLeaf = false ∧ nodeOk e = true ∧ s.treeSize.toNat + 1 = 2 * e.value.toNat + 1 ∧
      s.treeSize.toNat < 2 * e.value.toNat + 2 := by decide

/-- Every LEAF_RULE, at the first and the last node. -/
theorem witness_FlagBitBuildsNode :
    formatDue (buildingAt 1) = some .tf ∧ formatDue (buildingAt 4) = some .tf ∧
      15 + (buildingAt 4).buildIndex.toNat < (buildingAt 4).srcLen.toNat ∧
      (buildingAt 1).leafRule = .flagClearIsLeaf ∧
      formatDue { buildingAt 4 with leafRule := .flagSetIsLeaf } = some .tf ∧
      formatDue { buildingAt 4 with leafRule := .allInternal } = some .tf ∧
      formatDue { buildingAt 4 with leafRule := .childOutOfRange } = some .tf := by decide

theorem witness_NodeByteOverrunRaises :
    let s := { buildingAt 4 with srcLen := 19 }
    formatDue s = some .tf ∧ s.srcLen.toNat ≤ 15 + s.buildIndex.toNat := by decide

theorem witness_StoredBlockBegins : (inBlockAt .blockHeader []).seq = .blockHeader := by decide

/-- SRC_LEN at the last header byte. -/
theorem witness_CompressedBlockLoadsHeader :
    let s := inBlockAt .blockHeader headerP2
    s.seq = .blockHeader ∧ s.blockStart.toNat + 24 = s.srcLen.toNat := by decide

/-- SRC_LEN one byte short, at the first table byte, at the last of the 4 common bytes, and before the header. -/
theorem witness_CompressedBlockHeaderOverrun :
    let s := inBlockAt .blockHeader (headerP2.take 23)
    let t := inBlockAt .blockHeader (headerP2.take 4)
    let u := inBlockAt .blockHeader (headerP2.take 3)
    let v := { u with blockStart := 0x100000005 }
    s.seq = .blockHeader ∧ s.blockStart.toNat + 4 ≤ s.srcLen.toNat ∧ s.srcLen.toNat = s.blockStart.toNat + 23 ∧
      t.blockStart.toNat + 4 = t.srcLen.toNat ∧ u.pending = [] ∧ u.srcLen.toNat = u.blockStart.toNat + 3 ∧
      v.srcLen.toNat < v.blockStart.toNat := by decide

/-- X5's boundary: `uncompressedLength` equal to DST_CAP is accepted. -/
theorem witness_ContainerHeaderAccepted :
    let s := { validating headerP1 with dstCap := 5, ch := { ContainerHeader.zero with signature := magic } }
    s.seq = .validate ∧ s.ch.signature = magic ∧ s.srcLen.toNat = 16 ∧
      (le32 (s.src.read 4) (s.src.read 5) (s.src.read 6) (s.src.read 7)).toNat = s.dstCap.toNat := by decide

/-- X1, X2, X3, X4, X5 and P1 are the six outcomes. -/
theorem witness_ValidationOrder :
    let s := validating headerP1
    s.pending = [] ∧ s.seq = .validate ∧ ({ s with srcPresent := false } : State).srcPresent = false ∧
      (validating (headerP1.take 3)).srcLen.toNat < 4 ∧
      le32 0x31 0x5F 0x4A 0x59 ≠ magic ∧ (validating (headerP1.take 15)).srcLen.toNat < 16 ∧
      (4 : Word).toNat < (5 : Word).toNat ∧ le32 0x59 0x4A 0x5F 0x31 = magic := by decide

theorem witness_SignatureMismatchRaises :
    let s := validating []
    s.seq = .validate ∧ s.ch.signature ≠ 0x315F4A59 := by decide

theorem witness_StartBeginsDecode : busy State.reset = false ∧ busy (inBlockAt .finish []) = true := by decide

/-- A START, and a write of SRC_LEN. -/
theorem witness_RegisterWritesIgnoredWhileBusy :
    let s := inBlockAt .validate []
    let ev : HostEvent := { after := 0, act := .writeReg 0 3 }
    busy { s with pending := [ev] } = true ∧ ({ s with pending := [ev] } : State).pending = [ev] := by decide

/-- HT1's leaf, with room, and with the destination full (X7's boundary). -/
theorem witness_LiteralIsWritten :
    let s := { inBlockAt .litSymbol [] with node := 1 }
    s.pending = [] ∧ s.seq = .litSymbol ∧ (treeAt s s.node.toNat).isLeaf = true ∧
      s.writePos.toNat < s.dstCap.toNat ∧
      ({ s with writePos := 8 } : State).dstCap.toNat = ({ s with writePos := 8 } : State).writePos.toNat := by
  decide

theorem witness_CopyStep : copying.pending = [] ∧ copying.seq = .matchCopy := by decide

/-- CP2: distance 1, length 5, the copy filling the destination. -/
theorem witness_MatchReplicatesPeriod :
    let s := { copying with writePos := 1, matchDistance := 1, matchRemaining := 5, dstCap := 6 }
    s.pending = [] ∧ s.seq = .matchCopy ∧ s.matchDistance.toNat = 1 ∧ s.writePos.toNat = 1 ∧
      s.writePos.toNat + s.matchRemaining.toNat = s.dstCap.toNat := by decide

/-- CP3: distance 0 at `writePos` 7, length 3. -/
theorem witness_ZeroDistanceMatchKeepsBytes :
    let s := { copying with writePos := 7, matchDistance := 0, matchRemaining := 3, dstCap := 10 }
    s.pending = [] ∧ s.seq = .matchCopy ∧ s.matchDistance = 0 ∧
      s.writePos.toNat + s.matchRemaining.toNat = s.dstCap.toNat := by decide

/-- P1's stored block, the source ending with it. -/
def storing : State :=
  { inBlockAt .storedCopy [0x05, 0, 0, 0, 0x48, 0x45, 0x4C, 0x4C, 0x4F] with
    bh := { tables with uncompressedLength := 5, compressedLength := 0 } }

theorem witness_StoredBlockCopiesVerbatim :
    storing.pending = [] ∧ storing.seq = .storedCopy ∧ storing.storedIndex = 0 ∧
      storing.blockStart.toNat + 4 + storing.bh.uncompressedLength.toNat = storing.srcLen.toNat ∧
      storing.writePos.toNat + storing.bh.uncompressedLength.toNat ≤ storing.dstCap.toNat := by decide

/-- X6's overrun at the third byte, X7's at the fifth, and the byte before each, which is written. -/
theorem witness_StoredByteFaultOrder :
    let s := { storing with srcLen := 6, storedIndex := 2 }
    let t := { storing with dstCap := 4, storedIndex := 4, writePos := 4 }
    s.pending = [] ∧ s.seq = .storedCopy ∧ s.storedIndex.toNat < s.bh.uncompressedLength.toNat ∧
      s.srcLen.toNat = s.blockStart.toNat + 4 + s.storedIndex.toNat ∧
      t.storedIndex.toNat < t.bh.uncompressedLength.toNat ∧
      t.blockStart.toNat + 4 + t.storedIndex.toNat < t.srcLen.toNat ∧ t.dstCap.toNat = t.writePos.toNat ∧
      s.blockStart.toNat + 4 + 1 + 1 = s.srcLen.toNat ∧ s.writePos.toNat < s.dstCap.toNat ∧
      3 < t.bh.uncompressedLength.toNat ∧ ({ t with writePos := 3 } : State).writePos.toNat + 1 = t.dstCap.toNat := by
  decide

theorem witness_TreeBegins :
    (buildingAt 0).pending = [] ∧ (buildingAt 0).seq = .buildTree ∧ (buildingAt 0).buildIndex = 0 := by decide

/-- The index one past the tree's last. -/
theorem witness_TreeEnds :
    (buildingAt 5).pending = [] ∧ (buildingAt 5).seq = .buildTree ∧
      (buildingAt 5).treeSize.toNat + 1 = (buildingAt 5).buildIndex.toNat := by decide

theorem witness_FinishReports :
    (inBlockAt .finish []).pending = [] ∧ (inBlockAt .finish []).seq = .finish := by decide

theorem witness_EngineIdlesWhenNotBusy : State.reset.pending = [] ∧ busy State.reset = false := by decide

/-- A BUSY step that ends in ERROR. -/
theorem witness_EveryFailureIsRecorded :
    let s := { copying with writePos := 1, matchDistance := 3 }
    s.pending = [] ∧ busy s = true ∧ fieldOf (·.seq) (step s) = some .error := by decide

/-- P1 stood at LIT_SYMBOL under T2: a state of a decode that meets every invariant. -/
def whole : State :=
  { inBlockAt .litSymbol (List.replicate 24 0 ++ [0x00, 0x80]) with bitBase := 24, runRemaining := 1 }

/-- T2's entries are whole. -/
theorem whole_tree : InvTree whole := by
  refine ⟨fun h => absurd h (by decide), fun _ => ⟨by decide, by decide, ?_⟩, fun _ => by decide⟩
  decide

theorem witness_StepNeverStops : InvTree whole ∧ fieldOf (·.node) (step whole) = some 2 := ⟨whole_tree, by decide⟩

theorem witness_ResetEventAbandonsDecode :
    ({ whole with pending := [{ after := 0, act := .reset }] } : State).pending =
      [{ after := 0, act := .reset }] := by decide

/-- RESULT while no decode runs, and the poll of STATUS while one does. -/
theorem witness_HostReadsRegisters :
    let ev (off : Word) : HostEvent := { after := 0, act := .readReg off }
    busy { State.reset with pending := [ev 0x10] } = false ∧
      ({ State.reset with pending := [ev 0x10] } : State).pending = [ev 0x10] ∧
      busy { whole with pending := [ev 0x04] } = true ∧ (0x04 : Word) ∉ ([0x10, 0x14, 0x18, 0x1C, 0x20] : List Word) ∧
      fieldOf (·.readData) (step { whole with pending := [ev 0x04] }) = some 1 := by decide

/-- One offset of each clause. -/
theorem witness_HostWritesRegisters :
    let ev (off v : Word) : HostEvent := { after := 0, act := .writeReg off v }
    busy { State.reset with pending := [ev 0x00 2] } = false ∧ (2 : Word).getLsbD 0 = false ∧
      busy { State.reset with pending := [ev 0x08 31] } = false ∧
      busy { State.reset with pending := [ev 0x0C 8] } = false ∧
      busy { State.reset with pending := [ev 0x24 1] } = false ∧ (0x24 : Word) ≠ 0x00 ∧ (0x24 : Word) ≠ 0x08 ∧
      (0x24 : Word) ≠ 0x0C := by decide

/-- Both memories, idle and BUSY, written and read. -/
theorem witness_HostLoadsMemories :
    let src : HostEvent := { after := 0, act := .writeSrc 0 0x59 }
    let dst : HostEvent := { after := 0, act := .writeDst 0 0xEE }
    busy { State.reset with pending := [src] } = false ∧ busy { whole with pending := [src] } = true ∧
      busy { State.reset with pending := [dst] } = false ∧ busy { whole with pending := [dst] } = true ∧
      ({ whole with pending := [{ after := 0, act := .readSrc 25 }] } : State).pending =
        [{ after := 0, act := .readSrc 25 }] ∧
      fieldOf (·.readData) (step { whole with pending := [{ after := 0, act := .readSrc 25 }] }) = some 0x80 ∧
      busy { copying with seq := .done, pending := [{ after := 0, act := .readDst 1 }] } = false ∧
      fieldOf (·.readData)
        (step { copying with seq := .done, pending := [{ after := 0, act := .readDst 1 }] }) = some 0x42 := by
  decide

theorem witness_HostReadsOpenValueWhileBusy :
    let ev : HostEvent := { after := 0, act := .readReg 0x14 }
    let dst : HostEvent := { after := 0, act := .readDst 0 }
    busy { whole with pending := [ev] } = true ∧ ({ whole with pending := [ev] } : State).pending = [ev] ∧
      busy { whole with pending := [dst] } = true := by decide

theorem witness_StepKeepsMemoryCanonical :
    InvMem copying ∧ fieldOf (·.writePos) (step copying) = some 5 := by decide

theorem witness_StepKeepsStatusCode : InvStatus whole ∧ fieldOf (·.code) (step whole) = some 0 := by decide

theorem witness_StepKeepsWriteBounds :
    InvBounds copying ∧ busy copying = true ∧ fieldOf (·.writePos) (step copying) = some 5 := by decide

theorem witness_StepKeepsTreeAndBlocks :
    InvTree whole ∧ InvBlocks whole ∧ fieldOf (·.node) (step whole) = some 2 :=
  ⟨whole_tree, by decide, by decide⟩

theorem witness_StepKeepsCounts : InvRun whole ∧ InvRun copying ∧ fieldOf (·.seq) (step copying) = some .matchCopy := by
  decide

theorem witness_StepKeepsRegions : InvRegion whole ∧ fieldOf (·.node) (step whole) = some 2 := by decide

theorem witness_EngineKeepsInputs : whole.pending = [] ∧ whole.seq ≠ .buildTree ∧
    fieldOf (·.node) (step whole) = some 2 := by decide

/-- Both alternatives of the statement occur. -/
theorem witness_OutputIsSequential :
    whole.pending = [] ∧ fieldOf (·.writePos) (step whole) = some whole.writePos ∧
      copying.pending = [] ∧ fieldOf (·.writePos) (step copying) = some (copying.writePos + 1) := by decide

/-- Two cores that differ in what an earlier decode left: the tree, the block header, the ERROR record. -/
theorem witness_DecodeDependsOnLaunchOnly :
    sameLaunch State.reset { State.reset with seq := .error, code := 0x13, bh := tables, blockStart := 5 } := by
  refine ⟨by decide, by decide, rfl, rfl, rfl, rfl, rfl, rfl, fun _ _ => rfl, fun _ _ => rfl⟩

theorem witness_EveryDecodeEnds : whole.pending = [] ∧ State.reset.pending = [] := by decide

end Sys2Proof.Tests
end

/-! ## The engine and the host's list of actions

The engine neither reads nor writes `pending`: every operation of a sequencer step commutes with replacing that
list. Each operation has one equation saying so, composed along `Res.bind` and the branches of `if`. -/

namespace Sys2Proof.Machine

/-! ### Replacing the host's actions in a state and in the three kinds of outcome -/

/-- `s` with the host's actions still to come replaced by `p`. -/
def State.withPending (p : List HostEvent) (s : State) : State := { s with pending := p }

/-- The outcome of an operation inside a rule, its state's host actions replaced. -/
def Res.withPending {α : Type} (p : List HostEvent) : Res α → Res α
  | .ok a s => .ok a (s.withPending p)
  | .raised s => .raised (s.withPending p)

/-- What a step answers, its next state's host actions replaced; a stop holds no state. -/
def Result.withPending (p : List HostEvent) : Result → Result
  | .next s => .next (s.withPending p)
  | .fault x => .fault x
  | .refused x => .refused x

/-- What a fetch answers, its state's host actions replaced. -/
def Fetched.withPending (p : List HostEvent) : Fetched → Fetched
  | .instr i s => .instr i (s.withPending p)
  | .other r => .other (Result.withPending p r)

section
variable (p : List HostEvent)

/-! ### Composition -/

/-- A function passes through an `if` when it passes through both branches. -/
theorem ite_eq_apply_ite {α β : Type} {c : Prop} [Decidable c] {f : α → β} {a b : α} {a' b' : β}
    (ha : a' = f a) (hb : b' = f b) : (if c then a' else b') = f (if c then a else b) := by
  rw [apply_ite f, ha, hb]

variable {p} in
/-- Operations in order commute with the replacement when each does. -/
theorem Res.bind_withPending {α β : Type} {r r' : Res α} {k k' : α → State → Res β}
    (hr : r' = r.withPending p) (hk : ∀ a s, k' a (s.withPending p) = (k a s).withPending p) :
    r'.bind k' = (r.bind k).withPending p := by
  subst hr
  cases r with
  | ok a s => exact hk a s
  | raised s => rfl

theorem Res.seqAll_withPending (fs : List (State → Res Unit))
    (h : ∀ f ∈ fs, ∀ s, f (s.withPending p) = (f s).withPending p) (s : State) :
    Res.seqAll fs (s.withPending p) = (Res.seqAll fs s).withPending p := by
  induction fs generalizing s with
  | nil => rfl
  | cons f fs ih =>
    exact Res.bind_withPending (h f (by simp) s) fun _ s => ih (fun g hg => h g (by simp [hg])) s

variable {p} in
theorem Res.toResult_withPending {α : Type} {r r' : Res α} (h : r' = r.withPending p) :
    r'.toResult = Result.withPending p r.toResult := by
  subst h
  cases r <;> rfl

variable {p} in
theorem Res.toFetched_withPending {r r' : Res Instr} (h : r' = r.withPending p) :
    r'.toFetched = r.toFetched.withPending p := by
  subst h
  cases r <;> rfl

variable {p} in
theorem inSequence_withPending (m : String) (here : Bool) {r r' : Result}
    (h : r' = Result.withPending p r) : inSequence m here r' = Result.withPending p (inSequence m here r) := by
  subst h
  cases here <;> rfl

/-! ### Memory accesses and bit reads -/

theorem srcRead_withPending (a : Nat) (s : State) :
    srcRead a (s.withPending p) = (srcRead a s).withPending p := ite_eq_apply_ite rfl rfl

theorem srcRead16_withPending (a : Nat) (s : State) :
    srcRead16 a (s.withPending p) = (srcRead16 a s).withPending p :=
  Res.bind_withPending (srcRead_withPending p a s) fun _ s =>
    Res.bind_withPending (srcRead_withPending p (a + 1) s) fun _ _ => rfl

theorem srcRead32_withPending (a : Nat) (s : State) :
    srcRead32 a (s.withPending p) = (srcRead32 a s).withPending p :=
  Res.bind_withPending (srcRead_withPending p a s) fun _ s =>
    Res.bind_withPending (srcRead_withPending p (a + 1) s) fun _ s =>
      Res.bind_withPending (srcRead_withPending p (a + 2) s) fun _ s =>
        Res.bind_withPending (srcRead_withPending p (a + 3) s) fun _ _ => rfl

theorem dstRead_withPending (a : Nat) (s : State) :
    dstRead a (s.withPending p) = (dstRead a s).withPending p := ite_eq_apply_ite rfl rfl

theorem dstWrite_withPending (a : Nat) (v : Byte) (s : State) :
    dstWrite a v (s.withPending p) = (dstWrite a v s).withPending p := ite_eq_apply_ite rfl rfl

theorem appendByte_withPending (v : Byte) (s : State) :
    appendByte v (s.withPending p) = (appendByte v s).withPending p :=
  Res.bind_withPending (dstWrite_withPending p s.writePos.toNat v s) fun _ _ => rfl

theorem readBits_withPending (n : Nat) (s : State) :
    readBits n (s.withPending p) = (readBits n s).withPending p := by
  refine ite_eq_apply_ite rfl (ite_eq_apply_ite rfl (ite_eq_apply_ite rfl ?_))
  refine Res.bind_withPending (srcRead16_withPending p _ s) fun _ s => ite_eq_apply_ite rfl ?_
  exact Res.bind_withPending (srcRead16_withPending p _ s) fun _ _ => rfl

/-! ### Fetches -/

theorem fetchTree_withPending (t : CodeTree) (s : State) :
    fetchTree t (s.withPending p) = (fetchTree t s).withPending p := by
  induction t generalizing s with
  | instr i => rfl
  | field w mk =>
    exact ite_eq_apply_ite rfl (Res.bind_withPending (readBits_withPending p w s) fun _ _ => rfl)
  | read n k ih => exact Res.bind_withPending (readBits_withPending p n s) fun v s => ih v.toNat s

theorem fetchBlock_withPending (s : State) :
    fetchBlock (s.withPending p) = (fetchBlock s).withPending p :=
  Res.bind_withPending (srcRead16_withPending p _ s) fun ulen s =>
    Res.bind_withPending
      (srcRead16_withPending p _ { s with bh := { s.bh with uncompressedLength := ulen } }) fun _ _ => rfl

theorem fetchContainer_withPending (s : State) :
    fetchContainer (s.withPending p) = (fetchContainer s).withPending p := by
  refine ite_eq_apply_ite (Res.bind_withPending (srcRead32_withPending p 0 s) fun w s => ?_) rfl
  cases decodeWord .container w <;> rfl

/-! ### Sequencer steps that read no code word -/

theorem emitLiteral_withPending (s : State) :
    emitLiteral (s.withPending p) = (emitLiteral s).withPending p :=
  Res.bind_withPending (appendByte_withPending p _ s) fun _ _ => rfl

theorem stepStored_withPending (s : State) :
    stepStored (s.withPending p) = (stepStored s).withPending p :=
  ite_eq_apply_ite
    (Res.bind_withPending (srcRead_withPending p _ s) fun y s =>
      Res.bind_withPending (appendByte_withPending p y s) fun _ _ => rfl)
    rfl

theorem stepCopy_withPending (s : State) :
    stepCopy (s.withPending p) = (stepCopy s).withPending p :=
  ite_eq_apply_ite rfl (ite_eq_apply_ite rfl
    (Res.bind_withPending (dstRead_withPending p _ s) fun y s =>
      Res.bind_withPending (appendByte_withPending p y s) fun _ _ => rfl))

theorem fetchEngine_withPending (s : State) :
    fetchEngine (s.withPending p) = (fetchEngine s).withPending p := by
  have hseq : (s.withPending p).seq = s.seq := rfl
  have hlen : (s.withPending p).lenRead = s.lenRead := rfl
  have code (t : CodeTree) := Res.toFetched_withPending (fetchTree_withPending p t s)
  unfold fetchEngine
  rw [hseq]
  cases s.seq with
  | idle | done | error | finish => rfl
  | validate => exact Res.toFetched_withPending (fetchContainer_withPending p s)
  | buildTree => exact ite_eq_apply_ite rfl (ite_eq_apply_ite (code codeTf) rfl)
  | blockHeader => exact Res.toFetched_withPending (fetchBlock_withPending p s)
  | storedCopy => exact congrArg Fetched.other (Res.toResult_withPending (stepStored_withPending p s))
  | litCount | matchCount => exact code (codeLr s.bh)
  | litSymbol =>
    exact ite_eq_apply_ite
      (congrArg Fetched.other (Res.toResult_withPending (emitLiteral_withPending p s))) (code codeHuf)
  | matchItem =>
    rw [hlen]
    cases s.lenRead with
    | none => exact code (codeMc s.bh)
    | some len => exact code (codeOf s.bh)
  | matchCopy => exact congrArg Fetched.other (Res.toResult_withPending (stepCopy_withPending p s))

/-! ### Meanings -/

theorem withField_withPending (w : Byte) (v : Half) (s : State) {use use' : Word → Result}
    (h : ∀ x, use' x = Result.withPending p (use x)) :
    withField w v (s.withPending p) use' = Result.withPending p (withField w v s use) :=
  ite_eq_apply_ite rfl (h _)

theorem loadRunCount_withPending (r : Word) (s : State) :
    loadRunCount r (s.withPending p) = (loadRunCount r s).withPending p :=
  ite_eq_apply_ite rfl (ite_eq_apply_ite rfl rfl)

theorem execRunBase_withPending (m : String) (r : Byte) (s : State) :
    execRunBase m r (s.withPending p) = Result.withPending p (execRunBase m r s) :=
  inSequence_withPending m (countSeq s) (congrArg _ (loadRunCount_withPending p _ s))

theorem execRunField_withPending (m : String) (w : Byte) (v : Half) (s : State) :
    execRunField m w v (s.withPending p) = Result.withPending p (execRunField m w v s) :=
  inSequence_withPending m (countSeq s)
    (withField_withPending p w v s fun r => congrArg _ (loadRunCount_withPending p r s))

theorem execLengthBase_withPending (m : String) (len : Word) (s : State) :
    execLengthBase m len (s.withPending p) = Result.withPending p (execLengthBase m len s) :=
  inSequence_withPending m (lengthSeq s) rfl

theorem execLengthField_withPending (m : String) (w : Byte) (v : Half) (s : State) :
    execLengthField m w v (s.withPending p) = Result.withPending p (execLengthField m w v s) :=
  inSequence_withPending m (lengthSeq s) (withField_withPending p w v s fun _ => rfl)

theorem execOffset_withPending (m : String) (w : Byte) (d : Half) (s : State) :
    execOffset m w d (s.withPending p) = Result.withPending p (execOffset m w d s) := by
  have hlen : (s.withPending p).lenRead = s.lenRead := rfl
  unfold execOffset
  rw [hlen]
  cases s.lenRead with
  | none => rfl
  | some len => exact inSequence_withPending m _ (withField_withPending p w d s fun _ => rfl)

theorem moveTo_withPending (next : Option TreeIndex) (s : State) :
    moveTo next (s.withPending p) = Result.withPending p (moveTo next s) := by
  cases next with
  | none => rfl
  | some n => exact ite_eq_apply_ite rfl rfl

theorem buildNode_withPending (flag : Bool) (s : State) :
    buildNode flag (s.withPending p) = (buildNode flag s).withPending p :=
  Res.bind_withPending (srcRead_withPending p _ s) fun _ _ => rfl

theorem loadTables_withPending (s : State) :
    loadTables (s.withPending p) = (loadTables s).withPending p := by
  have base (j : Fin 4) (s : State) : loadMatchBase j (s.withPending p) = (loadMatchBase j s).withPending p :=
    Res.bind_withPending (srcRead16_withPending p _ s) fun _ _ => rfl
  have offsetWidth (j : Fin 4) (s : State) :
      loadOffsetWidth j (s.withPending p) = (loadOffsetWidth j s).withPending p :=
    Res.bind_withPending (srcRead_withPending p _ s) fun _ _ => rfl
  have matchWidth (j : Fin 3) (s : State) :
      loadMatchWidth j (s.withPending p) = (loadMatchWidth j s).withPending p :=
    Res.bind_withPending (srcRead_withPending p _ s) fun _ _ => rfl
  have runWidth (j : Fin 3) (s : State) :
      loadRunWidth j (s.withPending p) = (loadRunWidth j s).withPending p :=
    Res.bind_withPending (srcRead_withPending p _ s) fun _ _ => rfl
  have runBase (j : Fin 2) (s : State) : loadRunBase j (s.withPending p) = (loadRunBase j s).withPending p :=
    Res.bind_withPending (srcRead_withPending p _ s) fun _ _ => rfl
  refine Res.seqAll_withPending p _ ?_ s
  simp [base, offsetWidth, matchWidth, runWidth, runBase]

theorem execBlockCompressed_withPending (ulen clen : Half) (s : State) :
    execBlockCompressed ulen clen (s.withPending p) =
      Result.withPending p (execBlockCompressed ulen clen s) :=
  inSequence_withPending _ _ (Res.toResult_withPending
    (Res.bind_withPending (loadTables_withPending p (setLengths ulen clen s)) fun _ _ => rfl))

theorem loadContainerHeader_withPending (s : State) :
    loadContainerHeader (s.withPending p) = (loadContainerHeader s).withPending p := by
  refine Res.seqAll_withPending p _ ?_ s
  simp only [List.forall_mem_cons]
  refine ⟨fun s => ?_, fun s => ?_, fun s => ?_, fun s => ?_, fun s => ?_, by simp⟩
  · exact Res.bind_withPending (srcRead32_withPending p 4 s) fun _ _ => rfl
  · exact Res.bind_withPending (srcRead32_withPending p 8 s) fun _ _ => rfl
  · exact Res.bind_withPending (srcRead16_withPending p 12 s) fun _ _ => rfl
  · exact Res.bind_withPending (srcRead_withPending p 14 s) fun _ _ => rfl
  · exact Res.bind_withPending (srcRead_withPending p 15 s) fun _ _ => rfl

theorem execContainer_withPending (s : State) :
    execContainer (s.withPending p) = Result.withPending p (execContainer s) := by
  refine inSequence_withPending _ _ (ite_eq_apply_ite (Res.toResult_withPending ?_) rfl)
  exact Res.bind_withPending (loadContainerHeader_withPending p s) fun _ _ => ite_eq_apply_ite rfl rfl

theorem exec_withPending (i : Instr) (s : State) :
    exec i (s.withPending p) = Result.withPending p (exec i s) := by
  cases i with
  | lrBase0 | lrBase1 => exact execRunBase_withPending p _ _ s
  | lrExt1 v | lrExt2 v | lrExt3 v => exact execRunField_withPending p _ _ v s
  | mcBase0 | mcFb1 | mcFb2 | mcFb3 => exact execLengthBase_withPending p _ _ s
  | mcExt1 v | mcExt2 v | mcExt3 v => exact execLengthField_withPending p _ _ v s
  | of0 d | of1 d | of2 d | of3 d => exact execOffset_withPending p _ _ d s
  | huf0 | huf1 => exact inSequence_withPending _ (walkSeq s) (moveTo_withPending p _ s)
  | tf0 | tf1 =>
    exact inSequence_withPending _ (nodeSeq s) (Res.toResult_withPending (buildNode_withPending p _ s))
  | blockStored ulen => exact inSequence_withPending _ _ rfl
  | blockCompressed ulen clen => exact execBlockCompressed_withPending p ulen clen s
  | container => exact execContainer_withPending p s
  | cmdStart srcPresent => exact ite_eq_apply_ite rfl rfl

/-! ### Steps -/

/-- A step without host actions, from any fetch of the engine: the replacement passes through it. -/
theorem step_withPending_of_fetch {s t : State} (ht : fetch t = fetchEngine (s.withPending p))
    (hs : fetch s = fetchEngine s) : step t = Result.withPending p (step s) := by
  unfold step
  rw [ht, hs, fetchEngine_withPending]
  cases fetchEngine s with
  | instr i s' => exact exec_withPending p i s'
  | other r => rfl

end

theorem fetch_of_pending_nil {s : State} (h : s.pending = []) : fetch s = fetchEngine s := by
  unfold fetch
  rw [h]

/-- While the next action still waits, the engine is fetched, with that action one step nearer. -/
theorem fetch_of_after_succ {s : State} {ev : HostEvent} {rest : List HostEvent} {n : Nat}
    (hp : s.pending = ev :: rest) (hn : ev.after = n + 1) :
    fetch s = fetchEngine (s.withPending ({ ev with after := n } :: rest)) := by
  unfold fetch
  simp only [hp, hn]
  rfl

/-- A step before the host's next action is the step with no host action to come. -/
theorem step_of_after_succ {s : State} {ev : HostEvent} {rest : List HostEvent} {n : Nat}
    (hp : s.pending = ev :: rest) (hn : ev.after = n + 1) :
    step s = Result.withPending ({ ev with after := n } :: rest) (step { s with pending := [] }) :=
  step_withPending_of_fetch _ (fetch_of_after_succ hp hn) (fetch_of_pending_nil rfl)

/-- Settles O1: the engine's step commutes with replacing the host's actions. -/
theorem stepBeforeHostActionIsEngineStep : Obligations.StepBeforeHostActionIsEngineStep := by
  intro s ev n rest hp hn
  have hstep := step_of_after_succ hp hn
  constructor
  · intro t ht
    rw [hstep, ht]
    rfl
  · intro x hx
    rw [hstep, hx]
    rfl

end Sys2Proof.Machine

/-! ## What a step can do

A step's next state is one of a few moves, each written out once with the guard it is made under. The invariants
of the machine are proved over the moves, and no later proof opens the fetch or a meaning again. -/

/-! ### Code words and their formats -/

namespace Sys2Proof

/-- `P` holds of every instruction that reading the code can end in. -/
def CodeTree.All (P : Instr → Prop) : CodeTree → Prop
  | .instr i => P i
  | .field _ mk => ∀ v, P (mk v)
  | .read _ k => ∀ v, (k v).All P

theorem CodeTree.all_codeLr (bh : BlockHeader) : (codeLr bh).All fun i => i.format = .lr := by
  intro t
  dsimp only
  split
  · rfl
  · intro s
    dsimp only
    split
    · rfl
    all_goals exact fun _ => rfl

theorem CodeTree.all_codeMc (bh : BlockHeader) : (codeMc bh).All fun i => i.format = .mc := by
  intro s
  dsimp only
  split
  · rfl
  all_goals
    intro b
    dsimp only
    split
    · rfl
    · exact fun _ => rfl

theorem CodeTree.all_codeOf (bh : BlockHeader) : (codeOf bh).All fun i => i.format = .off := by
  intro s
  dsimp only
  split <;> exact fun _ => rfl

theorem CodeTree.all_codeHuf : codeHuf.All fun i => i.format = .huf := by
  intro b
  show (if b = 1 then Instr.huf1 else .huf0).format = .huf
  split <;> rfl

theorem CodeTree.all_codeTf : codeTf.All fun i => i.format = .tf := by
  intro b
  show (if b = 1 then Instr.tf1 else .tf0).format = .tf
  split <;> rfl

end Sys2Proof

namespace Sys2Proof.Machine

/-- A code word that was read is one its code can end in. -/
theorem fetchTree_all {P : Instr → Prop} {t : CodeTree} (ht : t.All P) {s s' : State} {i : Instr}
    (h : fetchTree t s = .ok i s') : P i := by
  induction t generalizing s with
  | instr j =>
    obtain ⟨rfl, -⟩ := Res.ok.inj h
    exact ht
  | field w mk =>
    rw [fetchTree] at h
    split at h
    · obtain ⟨rfl, -⟩ := Res.ok.inj h
      exact ht 0
    · cases hr : readBits w s with
      | ok v u =>
        rw [hr, Res.bind_ok] at h
        obtain ⟨rfl, -⟩ := Res.ok.inj h
        exact ht v
      | raised u => rw [hr] at h; cases h
  | read n k ih =>
    rw [fetchTree] at h
    cases hr : readBits n s with
    | ok v u => exact ih v.toNat (ht v.toNat) (by rwa [hr, Res.bind_ok] at h)
    | raised u => rw [hr] at h; cases h

/-- A code of one bit ends one bit further, or in the failure of that read. -/
theorem fetchTree_bit_cases (k : Nat → Instr) (s : State) :
    (∃ v, fetchTree (.read 1 fun b => .instr (k b)) s = .ok (k v) (advance 1 s)) ∨
    (∃ e n, fetchTree (.read 1 fun b => .instr (k b)) s = raise e n s) := by
  simp only [fetchTree]
  rcases readBits_cases 1 s with ⟨h, _⟩ | ⟨h, _⟩ | ⟨_, _, _, e⟩ | ⟨_, _, _, _, _, e⟩ | ⟨_, _, _, _, v, e⟩
  · omega
  · omega
  · exact .inr ⟨_, _, by rw [e, Res.bind_raise]⟩
  · exact .inr ⟨_, _, by rw [e, Res.bind_raise]⟩
  · exact .inl ⟨v.toNat, by rw [e, Res.bind_ok]⟩

end Sys2Proof.Machine

/-! ### What a meaning can answer

One inversion for each kind of code word: where it is run, and the states it can end in. -/

namespace Sys2Proof.Machine

theorem next_inj {s t : State} (h : (.next s : Result) = .next t) : s = t := Host.Outcome.next.inj h

/-- A value of at most 16 bits, extended to a word, is still one (30_encoding.md R148). -/
theorem toNat_setWidth_le {w : Nat} (hw : w ≤ 16) (v : BitVec w) : (v.setWidth 32).toNat ≤ 0xFFFF := by
  have hv : v.toNat < 2 ^ w := v.isLt
  have hpow : 2 ^ w ≤ 2 ^ 16 := Nat.pow_le_pow_right (by decide) hw
  rw [BitVec.toNat_setWidth]
  omega

/-- A guarded meaning that answers a state ran in its place. -/
theorem inSequence_next {m : String} {here : Bool} {r : Result} {t : State}
    (h : inSequence m here r = .next t) : here = true ∧ r = .next t := by
  rcases inSequence_cases m here r with ⟨hh, e⟩ | ⟨_, e⟩
  · exact ⟨hh, by rwa [e] at h⟩
  · rw [e] at h
    cases h

/-- A field raises by its width, or is used with a value of 16 bits (30_encoding.md R148). -/
theorem withField_next {w : Byte} {v : Half} {s t : State} {use : Word → Result}
    (h : withField w v s use = .next t) :
    (∃ n, t = takeFailure .bitCountTooLarge n s) ∨ ∃ x : Word, x.toNat ≤ 0xFFFF ∧ use x = .next t := by
  rcases withField_cases w v s use with ⟨_, e⟩ | ⟨_, e⟩
  · exact .inl ⟨w.toNat, (next_inj (e ▸ h)).symm⟩
  · exact .inr ⟨v.setWidth 32, toNat_setWidth_le (by decide) _, e ▸ h⟩

theorem execRunBase_next {m : String} {r : Byte} {s t : State} (h : execRunBase m r s = .next t) :
    countSeq s = true ∧ ((∃ n, t = takeFailure .bitCountTooLarge n s) ∨
      ∃ x : Word, x.toNat ≤ 0xFFFF ∧ t = loadRunCount x s) := by
  obtain ⟨hq, h⟩ := inSequence_next h
  exact ⟨hq, .inr ⟨r.setWidth 32, toNat_setWidth_le (by decide) _, (next_inj h).symm⟩⟩

theorem execRunField_next {m : String} {w : Byte} {v : Half} {s t : State}
    (h : execRunField m w v s = .next t) :
    countSeq s = true ∧ ((∃ n, t = takeFailure .bitCountTooLarge n s) ∨
      ∃ x : Word, x.toNat ≤ 0xFFFF ∧ t = loadRunCount x s) := by
  obtain ⟨hq, h⟩ := inSequence_next h
  refine ⟨hq, (withField_next h).imp_right ?_⟩
  rintro ⟨x, hx, h⟩
  exact ⟨x, hx, (next_inj h).symm⟩

/-- A literal-run code word raises by its field, or loads a run count of at most 16 bits. -/
theorem exec_lr_next {i : Instr} {s t : State} (hi : i.format = .lr) (h : exec i s = .next t) :
    countSeq s = true ∧ ((∃ n, t = takeFailure .bitCountTooLarge n s) ∨
      ∃ x : Word, x.toNat ≤ 0xFFFF ∧ t = loadRunCount x s) := by
  cases i with
  | lrBase0 | lrBase1 => exact execRunBase_next h
  | lrExt1 v | lrExt2 v | lrExt3 v => exact execRunField_next h
  | _ => nomatch hi

theorem execLengthBase_next {m : String} {len : Word} {s t : State} (hlen : len.toNat ≤ 0xFFFF)
    (h : execLengthBase m len s = .next t) :
    lengthSeq s = true ∧ ((∃ n, t = takeFailure .bitCountTooLarge n s) ∨
      ∃ x : Word, x.toNat ≤ 0xFFFF ∧ t = loadLength x s) := by
  obtain ⟨hq, h⟩ := inSequence_next h
  exact ⟨hq, .inr ⟨len, hlen, (next_inj h).symm⟩⟩

theorem execLengthField_next {m : String} {w : Byte} {v : Half} {s t : State}
    (h : execLengthField m w v s = .next t) :
    lengthSeq s = true ∧ ((∃ n, t = takeFailure .bitCountTooLarge n s) ∨
      ∃ x : Word, x.toNat ≤ 0xFFFF ∧ t = loadLength x s) := by
  obtain ⟨hq, h⟩ := inSequence_next h
  refine ⟨hq, (withField_next h).imp_right ?_⟩
  rintro ⟨x, hx, h⟩
  exact ⟨x, hx, (next_inj h).symm⟩

/-- The fallback is an entry of the match length base table (42_runlength.md R218). -/
theorem fallback_toNat_le (s : State) (k : Fin 4) : (fallback s k).toNat ≤ 0xFFFF := by
  unfold fallback
  cases s.matchFallback <;> exact toNat_setWidth_le (by decide) _

/-- A match-count code word raises by its field, or loads a length of at most 16 bits. -/
theorem exec_mc_next {i : Instr} {s t : State} (hi : i.format = .mc) (h : exec i s = .next t) :
    lengthSeq s = true ∧ ((∃ n, t = takeFailure .bitCountTooLarge n s) ∨
      ∃ x : Word, x.toNat ≤ 0xFFFF ∧ t = loadLength x s) := by
  cases i with
  | mcBase0 => exact execLengthBase_next (toNat_setWidth_le (by decide) _) h
  | mcFb1 | mcFb2 | mcFb3 => exact execLengthBase_next (fallback_toNat_le s _) h
  | mcExt1 v | mcExt2 v | mcExt3 v => exact execLengthField_next h
  | _ => nomatch hi

theorem execOffset_next {m : String} {w : Byte} {d : Half} {s t : State}
    (h : execOffset m w d s = .next t) :
    ∃ len, s.lenRead = some len ∧ s.seq = .matchItem ∧
      ((∃ n, t = takeFailure .bitCountTooLarge n s) ∨
        ∃ x : Word, x.toNat ≤ 0xFFFF ∧ t = loadMatch len x s) := by
  unfold execOffset at h
  split at h
  · rename_i len hl
    obtain ⟨hq, h⟩ := inSequence_next h
    refine ⟨len, hl, of_decide_eq_true hq, (withField_next h).imp_right ?_⟩
    rintro ⟨x, hx, h⟩
    exact ⟨x, hx, (next_inj h).symm⟩
  · cases h

/-- An offset code word raises by its field, or loads the match with a distance of at most 16 bits. -/
theorem exec_off_next {i : Instr} {s t : State} (hi : i.format = .off) (h : exec i s = .next t) :
    ∃ len, s.lenRead = some len ∧ s.seq = .matchItem ∧
      ((∃ n, t = takeFailure .bitCountTooLarge n s) ∨
        ∃ x : Word, x.toNat ≤ 0xFFFF ∧ t = loadMatch len x s) := by
  cases i with
  | of0 d | of1 d | of2 d | of3 d => exact execOffset_next h
  | _ => nomatch hi

theorem moveTo_next {next : Option TreeIndex} {s t : State} (h : moveTo next s = .next t) :
    ∃ n, next = some n ∧ (t = takeFailure .treeIndexOutOfRange n.toNat s ∨
      (n.toNat ≤ s.treeSize.toNat ∧ t = { s with node := n })) := by
  rcases moveTo_cases next s with ⟨_, e⟩ | ⟨n, hn, hle, e⟩ | ⟨n, hn, _, e⟩
  · rw [e] at h
    cases h
  · exact ⟨n, hn, .inr ⟨hle, (next_inj (e ▸ h)).symm⟩⟩
  · exact ⟨n, hn, .inl (next_inj (e ▸ h)).symm⟩

/-- A traversal bit moves to a child of the node, or raises past the tree (41_huffman.md R193). -/
theorem exec_huf_next {i : Instr} {s t : State} (hi : i.format = .huf) (h : exec i s = .next t) :
    walkSeq s = true ∧ ∃ n,
      ((treeAt s s.node.toNat).left = some n ∨ (treeAt s s.node.toNat).right = some n) ∧
      (t = takeFailure .treeIndexOutOfRange n.toNat s ∨
        (n.toNat ≤ s.treeSize.toNat ∧ t = { s with node := n })) := by
  cases i with
  | huf0 =>
    obtain ⟨hq, h⟩ := inSequence_next h
    obtain ⟨n, hn, ht⟩ := moveTo_next h
    exact ⟨hq, n, .inl hn, ht⟩
  | huf1 =>
    obtain ⟨hq, h⟩ := inSequence_next h
    obtain ⟨n, hn, ht⟩ := moveTo_next h
    exact ⟨hq, n, .inr hn, ht⟩
  | _ => nomatch hi

/-- A tree flag bit builds its node, or raises where the node's byte is past the source. -/
theorem exec_tf_next {i : Instr} {s t : State} (hi : i.format = .tf) (h : exec i s = .next t) :
    nodeSeq s = true ∧ (t = takeFailure .sourceOverrun (15 + s.buildIndex.toNat) s ∨
      ∃ leaf v, t = { setTree s.buildIndex.toNat (storedNode leaf v) s with
        buildIndex := s.buildIndex + 1 }) := by
  have build {m : String} {flag : Bool} (h : inSequence m (nodeSeq s) (buildNode flag s).toResult = .next t) :
      nodeSeq s = true ∧ (t = takeFailure .sourceOverrun (15 + s.buildIndex.toNat) s ∨
        ∃ leaf v, t = { setTree s.buildIndex.toNat (storedNode leaf v) s with
          buildIndex := s.buildIndex + 1 }) := by
    obtain ⟨hq, h⟩ := inSequence_next h
    refine ⟨hq, ?_⟩
    rcases buildNode_cases flag s with ⟨_, e⟩ | ⟨_, e⟩ <;> rw [e] at h
    · exact .inr ⟨_, _, (next_inj h).symm⟩
    · exact .inl (next_inj h).symm
  cases i with
  | tf0 | tf1 => exact build h
  | _ => nomatch hi

/-! ### The two headers

Both are lists of reads that write one header each and nothing else. -/

/-- `f` stores what it reads and ends `R`-related to where it began, or raises there. -/
def Loads (R : State → State → Prop) (f : State → Res Unit) : Prop :=
  ∀ s, (∃ t, R s t ∧ f s = .ok () t) ∨ ∃ e n, f s = raise e n s

/-- Loads in order end `R`-related to where they began, raised or not; and when none raised, each was run in a
state so related and did not raise. -/
theorem Loads.seqAll {R : State → State → Prop} (refl : ∀ s, R s s)
    (trans : ∀ {s t u}, R s t → R t u → R s u) {fs : List (State → Res Unit)}
    {op : State → Res Unit} (hop : op = Res.seqAll fs) (hfs : ∀ f ∈ fs, Loads R f) (s : State) :
    (∃ t, R s t ∧ op s = .ok () t ∧ ∀ f ∈ fs, ∃ u v, R s u ∧ f u = .ok () v) ∨
    (∃ e n t, R s t ∧ op s = raise e n t) := by
  subst hop
  induction fs generalizing s with
  | nil => exact .inl ⟨s, refl s, rfl, by simp⟩
  | cons f fs ih =>
    obtain ⟨hf, hfs⟩ := List.forall_mem_cons.mp hfs
    rw [Res.seqAll_cons]
    rcases hf s with ⟨t, hst, e⟩ | ⟨e, n, h⟩
    · rw [e, Res.bind_ok]
      rcases ih hfs t with ⟨u, htu, e', hall⟩ | ⟨e', n, u, htu, h⟩
      · refine .inl ⟨u, trans hst htu, e', List.forall_mem_cons.mpr ⟨⟨s, t, refl s, e⟩, fun g hg => ?_⟩⟩
        obtain ⟨v, w, htv, h⟩ := hall g hg
        exact ⟨v, w, trans hst htv, h⟩
      · exact .inr ⟨e', n, u, trans hst htu, h⟩
    · exact .inr ⟨e, n, s, refl s, by rw [h, Res.bind_raise]⟩

/-- A read answers a value in the state it was made in, or raises there. -/
def ReadsIn {α : Type} (s : State) (r : Res α) : Prop := (∃ v, r = .ok v s) ∨ ∃ e n, r = raise e n s

theorem readsIn_srcRead (a : Nat) (s : State) : ReadsIn s (srcRead a s) :=
  (srcRead_cases a s).imp (fun ⟨_, e⟩ => ⟨_, e⟩) fun ⟨_, e⟩ => ⟨_, _, e⟩

theorem readsIn_srcRead16 (a : Nat) (s : State) : ReadsIn s (srcRead16 a s) :=
  (srcRead16_cases a s).imp (fun ⟨_, e⟩ => ⟨_, e⟩) fun ⟨_, e⟩ => ⟨_, _, e⟩

theorem readsIn_srcRead32 (a : Nat) (s : State) : ReadsIn s (srcRead32 a s) :=
  (srcRead32_cases a s).imp (fun ⟨_, e⟩ => ⟨_, e⟩) fun ⟨_, e⟩ => ⟨_, _, e⟩

/-- A read followed by a store of its value is a load. -/
theorem Loads.of_readsIn {α : Type} {R : State → State → Prop} {read : State → Res α}
    {store : α → State → State} (hread : ∀ s, ReadsIn s (read s)) (hstore : ∀ v s, R s (store v s)) :
    Loads R fun s => (read s).bind fun v s => .ok () (store v s) := by
  intro s
  simp only
  rcases hread s with ⟨v, e⟩ | ⟨e, n, h⟩
  · exact .inl ⟨_, hstore v s, by rw [e, Res.bind_ok]⟩
  · exact .inr ⟨e, n, by rw [h, Res.bind_raise]⟩

/-- `t` is `s` but for `bh`. -/
def sameButBlockHeader (s t : State) : Prop := ∃ bh, t = { s with bh := bh }

/-- `t` is `s` but for `ch`. -/
def sameButContainerHeader (s t : State) : Prop := ∃ ch, t = { s with ch := ch }

theorem sameButBlockHeader.trans {s t u : State} :
    sameButBlockHeader s t → sameButBlockHeader t u → sameButBlockHeader s u := by
  rintro ⟨_, rfl⟩ ⟨bh, rfl⟩
  exact ⟨bh, rfl⟩

theorem sameButContainerHeader.trans {s t u : State} :
    sameButContainerHeader s t → sameButContainerHeader t u → sameButContainerHeader s u := by
  rintro ⟨_, rfl⟩ ⟨ch, rfl⟩
  exact ⟨ch, rfl⟩

/-- The last load of the tables reads the last byte of the header (30_encoding.md R131). -/
theorem loadRunBase_one_ok {s t : State} (h : loadRunBase 1 s = .ok () t) :
    s.blockStart.toNat + 24 ≤ s.srcLen.toNat := by
  rcases srcRead_cases (s.blockStart.toNat + 22 + 1) s with ⟨hlt, _⟩ | ⟨_, e⟩
  · omega
  · have hraise : loadRunBase 1 s = raise .sourceOverrun (s.blockStart.toNat + 22 + 1) s :=
      congrArg (Res.bind · _) e
    rw [hraise] at h
    cases h

/-- Loading the tables writes `bh` alone, and needs all 24 bytes of the header (30_encoding.md R131). -/
theorem loadTables_cases (s : State) :
    (s.blockStart.toNat + 24 ≤ s.srcLen.toNat ∧ ∃ bh, loadTables s = .ok () { s with bh := bh }) ∨
    ∃ e n bh, loadTables s = raise e n { s with bh := bh } := by
  have base (j : Fin 4) : Loads sameButBlockHeader (loadMatchBase j) :=
    Loads.of_readsIn (fun s => readsIn_srcRead16 (s.blockStart.toNat + 4 + 2 * j) s) fun _ _ => ⟨_, rfl⟩
  have offsetWidth (j : Fin 4) : Loads sameButBlockHeader (loadOffsetWidth j) :=
    Loads.of_readsIn (fun s => readsIn_srcRead (s.blockStart.toNat + 12 + j) s) fun _ _ => ⟨_, rfl⟩
  have matchWidth (j : Fin 3) : Loads sameButBlockHeader (loadMatchWidth j) :=
    Loads.of_readsIn (fun s => readsIn_srcRead (s.blockStart.toNat + 16 + j) s) fun _ _ => ⟨_, rfl⟩
  have runWidth (j : Fin 3) : Loads sameButBlockHeader (loadRunWidth j) :=
    Loads.of_readsIn (fun s => readsIn_srcRead (s.blockStart.toNat + 19 + j) s) fun _ _ => ⟨_, rfl⟩
  have runBase (j : Fin 2) : Loads sameButBlockHeader (loadRunBase j) :=
    Loads.of_readsIn (fun s => readsIn_srcRead (s.blockStart.toNat + 22 + j) s) fun _ _ => ⟨_, rfl⟩
  rcases Loads.seqAll (R := sameButBlockHeader) (fun s => ⟨s.bh, rfl⟩) .trans (op := loadTables) rfl
    (by simp [base, offsetWidth, matchWidth, runWidth, runBase]) s
    with ⟨_, ⟨bh, rfl⟩, e, hall⟩ | ⟨e, n, _, ⟨bh, rfl⟩, h⟩
  · obtain ⟨_, _, ⟨_, rfl⟩, hlast⟩ := hall (loadRunBase 1) (by simp)
    have hheader := loadRunBase_one_ok hlast
    exact .inl ⟨hheader, bh, e⟩
  · exact .inr ⟨e, n, bh, h⟩

/-- Loading the container header writes `ch` alone. -/
theorem loadContainerHeader_cases (s : State) :
    (∃ ch, loadContainerHeader s = .ok () { s with ch := ch }) ∨
    ∃ e n ch, loadContainerHeader s = raise e n { s with ch := ch } := by
  rcases Loads.seqAll (R := sameButContainerHeader) (fun s => ⟨s.ch, rfl⟩) .trans (op := loadContainerHeader) rfl
    (by
      simp only [List.forall_mem_cons]
      exact ⟨.of_readsIn (readsIn_srcRead32 4) fun _ _ => ⟨_, rfl⟩,
        .of_readsIn (readsIn_srcRead32 8) fun _ _ => ⟨_, rfl⟩,
        .of_readsIn (readsIn_srcRead16 12) fun _ _ => ⟨_, rfl⟩,
        .of_readsIn (readsIn_srcRead 14) fun _ _ => ⟨_, rfl⟩,
        .of_readsIn (readsIn_srcRead 15) fun _ _ => ⟨_, rfl⟩, List.forall_mem_nil _⟩) s
    with ⟨_, ⟨ch, rfl⟩, e, _⟩ | ⟨e, n, _, ⟨ch, rfl⟩, h⟩
  · exact .inl ⟨ch, e⟩
  · exact .inr ⟨e, n, ch, h⟩

end Sys2Proof.Machine

/-! ### The moves of the engine and of the host -/

namespace Sys2Proof.Machine

/-- What a sequencer step of `s` can lead to: each effect of the rules once, under the guard it is made under. What
a code word's bits move `bitPosition` to is left open but for a tree flag bit, and so are the header fields and
bytes read from the source. -/
inductive EngineMove (s : State) : State → Prop
  /-- IDLE, DONE and ERROR perform nothing (60_exceptions.md R337) -/
  | rest (hidle : busy s = false) : EngineMove s s
  /-- a raise, after the bits and header fields that the same rule had read (R320) -/
  | fail (e : Failure) (info : Nat) (p : Word) (ch : ContainerHeader) (bh : BlockHeader) (hbusy : busy s = true) :
      EngineMove s (takeFailure e info { s with bitPosition := p, ch := ch, bh := bh })
  /-- the container is accepted (44_container.md R272 to R275) -/
  | acceptContainer (ch : ContainerHeader) (hseq : s.seq = .validate)
      (hcap : ch.uncompressedLength.toNat ≤ s.dstCap.toNat) :
      EngineMove s { s with ch := ch, buildIndex := 0, seq := .buildTree }
  /-- tree construction begins (41_huffman.md R182 step (1)) -/
  | beginTree (hseq : s.seq = .buildTree) (hindex : s.buildIndex = 0) : EngineMove s (beginTree s)
  /-- a stored node is built (R182 step (2)) -/
  | buildNode (leaf : Bool) (v : Byte) (hseq : s.seq = .buildTree) (hpos : 0 < s.buildIndex.toNat)
      (hle : s.buildIndex.toNat ≤ s.treeSize.toNat) :
      EngineMove s { setTree s.buildIndex.toNat (storedNode leaf v) (advance 1 s) with
        buildIndex := s.buildIndex + 1 }
  /-- tree construction ends (R182 step (3)) -/
  | endTree (hseq : s.seq = .buildTree) (hlt : s.treeSize.toNat < s.buildIndex.toNat) : EngineMove s (endTree s)
  /-- a stored block begins (43_block.md R253) -/
  | beginStored (bh : BlockHeader) (hseq : s.seq = .blockHeader)
      (hheader : s.blockStart.toNat + 4 ≤ s.srcLen.toNat) :
      EngineMove s { s with bh := bh, storedIndex := 0, seq := .storedCopy }
  /-- a compressed block begins (R231) -/
  | beginCompressed (bh : BlockHeader) (hseq : s.seq = .blockHeader)
      (hheader : s.blockStart.toNat + 24 ≤ s.srcLen.toNat) : EngineMove s (enterBitstream { s with bh := bh })
  /-- a stored byte is copied (R253) -/
  | storedByte (v : Byte) (hseq : s.seq = .storedCopy) (hcap : s.writePos.toNat < s.dstCap.toNat) :
      EngineMove s { s with
        dst := s.dst.write s.writePos.toNat v, writePos := s.writePos + 1, storedIndex := s.storedIndex + 1 }
  /-- a stored block ends (R254) -/
  | endStored (hseq : s.seq = .storedCopy) : EngineMove s (endStoredBlock s)
  /-- a run count is read (R232, R234, R251) -/
  | runCount (r p : Word) (hseq : s.seq = .litCount ∨ s.seq = .matchCount) (hr : r.toNat ≤ 0xFFFF) :
      EngineMove s (loadRunCount r { s with bitPosition := p })
  /-- a traversal bit is read (41_huffman.md R190) -/
  | descend (n : TreeIndex) (p : Word) (hseq : s.seq = .litSymbol)
      (hchild : (treeAt s s.node.toNat).left = some n ∨ (treeAt s s.node.toNat).right = some n)
      (hn : n.toNat ≤ s.treeSize.toNat) : EngineMove s { s with bitPosition := p, node := n }
  /-- a decoded literal is written (43_block.md R233) -/
  | literal (v : Byte) (hseq : s.seq = .litSymbol) (hcap : s.writePos.toNat < s.dstCap.toNat) :
      EngineMove s { s with
        dst := s.dst.write s.writePos.toNat v, writePos := s.writePos + 1,
        runRemaining := s.runRemaining - 1, node := 0,
        seq := if s.runRemaining - 1 = 0 then .matchCount else .litSymbol }
  /-- a match length is read (R235 step (1)) -/
  | matchLength (len p : Word) (hseq : s.seq = .matchItem) (hlen : len.toNat ≤ 0xFFFF) :
      EngineMove s (loadLength len { s with bitPosition := p })
  /-- a match distance is read (R235 steps (2) to (4)) -/
  | matchDistance (len dist p : Word) (hseq : s.seq = .matchItem) (hlen : s.lenRead = some len)
      (hdist : dist.toNat ≤ 0xFFFF) : EngineMove s (loadMatch len dist { s with bitPosition := p })
  /-- a byte of a match is copied (R247) -/
  | copyByte (v : Byte) (hseq : s.seq = .matchCopy) (hmore : s.matchRemaining ≠ 0)
      (hcap : s.writePos.toNat < s.dstCap.toNat) :
      EngineMove s { s with
        dst := s.dst.write s.writePos.toNat v, writePos := s.writePos + 1,
        matchRemaining := s.matchRemaining - 1 }
  /-- a match ends (R247 step (1)) -/
  | endMatch (hseq : s.seq = .matchCopy) (hdone : s.matchRemaining = 0) : EngineMove s (endMatch s)
  /-- the decode ends (44_container.md R279) -/
  | finish (hseq : s.seq = .finish) : EngineMove s (finishDecode s)

/-- What a host action on `s` can lead to. -/
inductive HostMove (s : State) : State → Prop
  /-- START while no decode runs (44_container.md R270) -/
  | start (p : Bool) (hidle : busy s = false) : HostMove s (startDecode p s)
  /-- another write to a register or a memory while no decode runs (10_state.md R31 to R35) -/
  | write (p : Bool) (srcLen dstCap : Word) (src dst : Memory) (hidle : busy s = false) :
      HostMove s { s with srcPresent := p, srcLen := srcLen, dstCap := dstCap, src := src, dst := dst }
  /-- a read, or a write ignored while BUSY (70_reset_and_hazards.md R353, R362) -/
  | answer (v : Word) (k : Nat) : HostMove s { s with readData := v, freeCount := k }
  /-- the reset (R350, R351) -/
  | reset : HostMove s (resetCore s)

/-! ### Every step is a move -/

theorem busy_of_seq {s : State} {q : Seq} (h : s.seq = q) (hq : statusState q = 1) : busy s = true := by
  rw [busy, h, hq]
  rfl

/-- The step that follows a fetch. -/
def Fetched.run : Fetched → Result
  | .instr i s => exec i s
  | .other r => r

theorem step_eq_run_fetch (s : State) : step s = (fetch s).run := by
  unfold step
  cases fetch s <;> rfl

section
variable {s t : State}

/-- A raise before anything was read. -/
theorem EngineMove.fail_here {e : Failure} {info : Nat} (hbusy : busy s = true) :
    EngineMove s (takeFailure e info s) :=
  .fail e info s.bitPosition s.ch s.bh hbusy

theorem fetchContainer_cases (s : State) :
    (∃ ch, fetchContainer s = .ok .container { s with ch := ch }) ∨
    ∃ e n ch, fetchContainer s = raise e n { s with ch := ch } := by
  unfold fetchContainer
  split
  · rcases readsIn_srcRead32 0 s with ⟨w, e⟩ | ⟨e, n, h⟩
    · rw [e, Res.bind_ok]
      by_cases hw : w = magic
      · exact .inl ⟨_, by simp only [decodeWord, if_pos hw]; rfl⟩
      · exact .inr ⟨_, _, _, by simp only [decodeWord, if_neg hw]; rfl⟩
    · exact .inr ⟨e, n, s.ch, by rw [h, Res.bind_raise]⟩
  · exact .inr ⟨_, _, s.ch, rfl⟩

/-- The container's meaning accepts a header that fits DST_CAP, or raises after part of the header. -/
theorem execContainer_next (h : execContainer s = .next t) :
    s.seq = .validate ∧ ((∃ e n ch, t = takeFailure e n { s with ch := ch }) ∨
      ∃ ch, ch.uncompressedLength.toNat ≤ s.dstCap.toNat ∧
        t = { s with ch := ch, buildIndex := 0, seq := .buildTree }) := by
  obtain ⟨hseq, h⟩ := inSequence_next h
  refine ⟨of_decide_eq_true hseq, ?_⟩
  split at h
  · rcases loadContainerHeader_cases s with ⟨ch, e⟩ | ⟨e, n, ch, e'⟩
    · rw [e, Res.bind_ok, checkCapacity] at h
      split at h
      · exact .inl ⟨_, _, ch, (next_inj h).symm⟩
      · exact .inr ⟨ch, Nat.le_of_not_lt ‹_›, (next_inj h).symm⟩
    · rw [e', Res.bind_raise] at h
      exact .inl ⟨e, n, ch, (next_inj h).symm⟩
  · exact .inl ⟨_, _, s.ch, (next_inj h).symm⟩

theorem engineMove_of_fetchContainer (hseq : s.seq = .validate)
    (h : (fetchContainer s).toFetched.run = .next t) : EngineMove s t := by
  have hbusy := busy_of_seq hseq rfl
  rcases fetchContainer_cases s with ⟨ch, e⟩ | ⟨e, n, ch, e'⟩
  · rw [e] at h
    obtain ⟨_, ⟨e, n, ch, rfl⟩ | ⟨ch, hcap, rfl⟩⟩ := execContainer_next h
    · exact .fail e n s.bitPosition ch s.bh hbusy
    · exact .acceptContainer ch hseq hcap
  · rw [e'] at h
    exact next_inj h ▸ .fail e n s.bitPosition ch s.bh hbusy

/-- A block's first word is below SRC_LEN and is one of the two kinds, or its read raises. -/
theorem fetchBlock_cases (s : State) :
    (s.blockStart.toNat + 4 ≤ s.srcLen.toNat ∧
      ∃ w bh, fetchBlock s = .ok (decodeBlockWord w) { s with bh := bh }) ∨
    ∃ e n bh, fetchBlock s = raise e n { s with bh := bh } := by
  unfold fetchBlock
  rcases readsIn_srcRead16 s.blockStart.toNat s with ⟨ulen, e⟩ | ⟨e, n, h⟩
  · rw [e, Res.bind_ok]
    rcases srcRead16_cases (s.blockStart.toNat + 2) { s with bh := { s.bh with uncompressedLength := ulen } }
      with ⟨hlt, e'⟩ | ⟨_, e'⟩
    · exact .inl ⟨by simp only at hlt; omega, _, _, by rw [e', Res.bind_ok]⟩
    · exact .inr ⟨_, _, _, by rw [e', Res.bind_raise]⟩
  · exact .inr ⟨e, n, s.bh, by rw [h, Res.bind_raise]⟩

theorem engineMove_of_fetchBlock (hseq : s.seq = .blockHeader)
    (h : (fetchBlock s).toFetched.run = .next t) : EngineMove s t := by
  have hbusy := busy_of_seq hseq rfl
  rcases fetchBlock_cases s with ⟨hheader, w, bh, e⟩ | ⟨e, n, bh, e'⟩
  · rw [e, Res.toFetched_ok, Fetched.run, decodeBlockWord] at h
    split at h
    · obtain ⟨_, h⟩ := inSequence_next h
      exact next_inj h ▸ .beginStored _ hseq hheader
    · obtain ⟨_, h⟩ := inSequence_next h
      rcases loadTables_cases (setLengths (w.extractLsb' 0 16) (w.extractLsb' 16 16) { s with bh := bh })
        with ⟨hheader, bh', e⟩ | ⟨e, n, bh', e'⟩
      · rw [e, Res.bind_ok] at h
        exact next_inj h ▸ .beginCompressed bh' hseq hheader
      · rw [e', Res.bind_raise] at h
        exact next_inj h ▸ .fail e n s.bitPosition s.ch bh' hbusy
  · rw [e'] at h
    exact next_inj h ▸ .fail e n s.bitPosition s.ch bh hbusy

/-- The step at a code word is a move when every meaning of the code word's format ends in one. -/
theorem engineMove_of_fetchTree {f : Format} {tree : CodeTree} (hbusy : busy s = true)
    (htree : tree.All fun i => i.format = f)
    (hexec : ∀ i p, i.format = f → exec i { s with bitPosition := p } = .next t → EngineMove s t)
    (h : (fetchTree tree s).toFetched.run = .next t) : EngineMove s t := by
  rcases fetchTree_cases tree s with ⟨i, p, e⟩ | ⟨e, n, p, e'⟩
  · rw [e] at h
    exact hexec i p (fetchTree_all htree e) h
  · rw [e'] at h
    exact next_inj h ▸ .fail e n p s.ch s.bh hbusy

theorem engineMove_of_codeLr (hbusy : busy s = true)
    (h : (fetchTree (codeLr s.bh) s).toFetched.run = .next t) : EngineMove s t := by
  refine engineMove_of_fetchTree hbusy (CodeTree.all_codeLr s.bh) (fun i p hi h => ?_) h
  obtain ⟨hseq, ⟨n, rfl⟩ | ⟨r, hr, rfl⟩⟩ := exec_lr_next hi h
  · exact .fail _ n p s.ch s.bh hbusy
  · exact .runCount r p (of_decide_eq_true hseq) hr

theorem engineMove_of_codeHuf (hbusy : busy s = true)
    (h : (fetchTree codeHuf s).toFetched.run = .next t) : EngineMove s t := by
  refine engineMove_of_fetchTree hbusy CodeTree.all_codeHuf (fun i p hi h => ?_) h
  obtain ⟨hwalk, n, hchild, rfl | ⟨hn, rfl⟩⟩ := exec_huf_next hi h
  · exact .fail _ n.toNat p s.ch s.bh hbusy
  · obtain ⟨hseq, _⟩ := Bool.and_eq_true_iff.mp hwalk
    exact .descend n p (of_decide_eq_true hseq) hchild hn

theorem engineMove_of_codeMc (hbusy : busy s = true)
    (h : (fetchTree (codeMc s.bh) s).toFetched.run = .next t) : EngineMove s t := by
  refine engineMove_of_fetchTree hbusy (CodeTree.all_codeMc s.bh) (fun i p hi h => ?_) h
  obtain ⟨hseq, ⟨n, rfl⟩ | ⟨len, hlen, rfl⟩⟩ := exec_mc_next hi h
  · exact .fail _ n p s.ch s.bh hbusy
  · obtain ⟨hseq, _⟩ := of_decide_eq_true hseq
    exact .matchLength len p hseq hlen

theorem engineMove_of_codeOf (hbusy : busy s = true)
    (h : (fetchTree (codeOf s.bh) s).toFetched.run = .next t) : EngineMove s t := by
  refine engineMove_of_fetchTree hbusy (CodeTree.all_codeOf s.bh) (fun i p hi h => ?_) h
  obtain ⟨len, hlen, hseq, ⟨n, rfl⟩ | ⟨dist, hdist, rfl⟩⟩ := exec_off_next hi h
  · exact .fail _ n p s.ch s.bh hbusy
  · exact .matchDistance len dist p hseq hlen hdist

/-- A tree flag bit is one bit, so its step moves `bitPosition` by 1. -/
theorem engineMove_of_codeTf (hbusy : busy s = true)
    (h : (fetchTree codeTf s).toFetched.run = .next t) : EngineMove s t := by
  rcases fetchTree_bit_cases (fun f => if f = 1 then .tf1 else .tf0) s with ⟨v, e⟩ | ⟨e, n, e'⟩
  · have hformat := fetchTree_all CodeTree.all_codeTf e
    rw [codeTf, e] at h
    obtain ⟨hnode, rfl | ⟨leaf, v, rfl⟩⟩ := exec_tf_next hformat h
    · exact .fail _ _ (advance 1 s).bitPosition s.ch s.bh hbusy
    · obtain ⟨hseq, hpos, hle⟩ := of_decide_eq_true hnode
      exact .buildNode leaf v hseq hpos hle
  · rw [codeTf, e'] at h
    exact next_inj h ▸ .fail_here hbusy

theorem engineMove_of_emitLiteral (hseq : s.seq = .litSymbol)
    (h : (emitLiteral s).toResult = .next t) : EngineMove s t := by
  rcases emitLiteral_cases s with ⟨hcap, e⟩ | ⟨_, e⟩ <;> rw [e] at h
  · exact next_inj h ▸ .literal _ hseq hcap
  · exact next_inj h ▸ .fail_here (busy_of_seq hseq rfl)

theorem engineMove_of_stepStored (hseq : s.seq = .storedCopy)
    (h : (stepStored s).toResult = .next t) : EngineMove s t := by
  have hbusy := busy_of_seq hseq rfl
  rcases stepStored_cases s with ⟨_, e⟩ | ⟨_, _, e⟩ | ⟨_, _, _, e⟩ | ⟨_, _, hcap, e⟩ <;> rw [e] at h
  · exact next_inj h ▸ .endStored hseq
  · exact next_inj h ▸ .fail_here hbusy
  · exact next_inj h ▸ .fail_here hbusy
  · exact next_inj h ▸ .storedByte _ hseq hcap

theorem engineMove_of_stepCopy (hseq : s.seq = .matchCopy)
    (h : (stepCopy s).toResult = .next t) : EngineMove s t := by
  have hbusy := busy_of_seq hseq rfl
  rcases stepCopy_cases s with ⟨hdone, e⟩ | ⟨_, _, e⟩ | ⟨_, _, _, e⟩ | ⟨_, _, _, _, e⟩ | ⟨hmore, _, hcap, e⟩ <;>
    rw [e] at h
  · exact next_inj h ▸ .endMatch hseq hdone
  · exact next_inj h ▸ .fail_here hbusy
  · exact next_inj h ▸ .fail_here hbusy
  · exact next_inj h ▸ .fail_here hbusy
  · exact next_inj h ▸ .copyByte _ hseq hmore hcap

/-- A step of the engine is one of its moves. -/
theorem engineMove_of_fetchEngine (h : (fetchEngine s).run = .next t) : EngineMove s t := by
  unfold fetchEngine at h
  split at h
  case h_1 hseq | h_2 hseq | h_3 hseq => exact next_inj h ▸ .rest (by rw [busy, hseq]; rfl)
  case h_4 hseq => exact engineMove_of_fetchContainer hseq h
  case h_5 hseq =>
    split at h
    · exact next_inj h ▸ .beginTree hseq ‹_›
    split at h
    · exact engineMove_of_codeTf (busy_of_seq hseq rfl) h
    · exact next_inj h ▸ .endTree hseq (Nat.lt_of_not_le ‹_›)
  case h_6 hseq => exact engineMove_of_fetchBlock hseq h
  case h_7 hseq => exact engineMove_of_stepStored hseq h
  case h_8 hseq => exact engineMove_of_codeLr (busy_of_seq hseq rfl) h
  case h_9 hseq =>
    split at h
    · exact engineMove_of_emitLiteral hseq h
    · exact engineMove_of_codeHuf (busy_of_seq hseq rfl) h
  case h_10 hseq => exact engineMove_of_codeLr (busy_of_seq hseq rfl) h
  case h_11 hseq =>
    split at h
    · exact engineMove_of_codeMc (busy_of_seq hseq rfl) h
    · exact engineMove_of_codeOf (busy_of_seq hseq rfl) h
  case h_12 hseq => exact engineMove_of_stepCopy hseq h
  case h_13 hseq => exact next_inj h ▸ .finish hseq

theorem engineMove_of_step (hp : s.pending = []) (h : step s = .next t) : EngineMove s t := by
  rw [step_eq_run_fetch, fetch_of_pending_nil hp] at h
  exact engineMove_of_fetchEngine h

end

end Sys2Proof.Machine

/-! ### The host's turn -/

namespace Sys2Proof.Machine

/-- When the host's next action is due, it is what is fetched. -/
theorem fetch_of_due {s : State} {act : HostAct} {rest : List HostEvent}
    (hp : s.pending = { after := 0, act := act } :: rest) :
    fetch s = fetchHost act { s with pending := rest } := by
  unfold fetch
  rw [hp]

/-- A write to CTRL with START = 1 is fetched as CMD.START (10_state.md R32). -/
theorem fetchHost_start {v : Word} (hv : v.getLsbD 0 = true) (s : State) :
    fetchHost (.writeReg 0 v) s = .instr (.cmdStart (v.getLsbD 1)) s := by
  rw [fetchHost, if_pos rfl, decodeWord, if_pos hv]

/-- Every other write to a register is an access of the host. -/
theorem fetchHost_writeReg {off v : Word} (h : off = 0 → v.getLsbD 0 = false) (s : State) :
    fetchHost (.writeReg off v) s = .other (hostAccess (.writeReg off v) s) := by
  by_cases hoff : off = 0
  · rw [fetchHost, if_pos hoff, decodeWord, h hoff]
    rfl
  · rw [fetchHost, if_neg hoff]

section
variable {s t : State}

/-- What each access of the host leads to is a move. -/
theorem hostMove_of_hostAccess (act : HostAct) (h : hostAccess act s = .next t) : HostMove s t := by
  cases act with
  | writeReg off v =>
    obtain rfl := next_inj h
    unfold regWrite
    split
    · exact .answer s.readData s.freeCount
    have hidle : busy s = false := Bool.eq_false_iff.mpr ‹_›
    split
    · exact .write _ s.srcLen s.dstCap s.src s.dst hidle
    split
    · exact .write s.srcPresent v s.dstCap s.src s.dst hidle
    split
    · exact .write s.srcPresent s.srcLen v s.src s.dst hidle
    · exact .answer s.readData s.freeCount
  | readReg off =>
    obtain rfl := next_inj h
    split
    · exact .answer _ _
    · exact .answer _ s.freeCount
  | writeSrc a v =>
    rw [hostAccess] at h
    split at h
    · cases h
    · exact next_inj h ▸ .write s.srcPresent s.srcLen s.dstCap _ s.dst (Bool.eq_false_iff.mpr ‹_›)
  | readSrc a => exact next_inj h ▸ .answer _ s.freeCount
  | writeDst a v =>
    rw [hostAccess] at h
    split at h
    · cases h
    · exact next_inj h ▸ .write s.srcPresent s.srcLen s.dstCap s.src _ (Bool.eq_false_iff.mpr ‹_›)
  | readDst a =>
    obtain rfl := next_inj h
    split
    · exact .answer _ _
    · exact .answer _ s.freeCount
  | reset => exact next_inj h ▸ .reset

theorem hostMove_of_cmdStart {p : Bool} (h : exec (.cmdStart p) s = .next t) : HostMove s t := by
  change execCmdStart p s = .next t at h
  unfold execCmdStart at h
  split at h
  · exact next_inj h ▸ .answer s.readData s.freeCount
  · exact next_inj h ▸ .start p (Bool.eq_false_iff.mpr ‹_›)

/-- A step of the host is one of its moves. -/
theorem hostMove_of_fetchHost {act : HostAct} (h : (fetchHost act s).run = .next t) : HostMove s t := by
  have access (act : HostAct) (h : (Fetched.other (hostAccess act s)).run = .next t) : HostMove s t :=
    hostMove_of_hostAccess act h
  cases act with
  | writeReg off v =>
    by_cases hstart : off = 0 ∧ v.getLsbD 0 = true
    · obtain ⟨rfl, hv⟩ := hstart
      rw [fetchHost_start hv] at h
      exact hostMove_of_cmdStart h
    · rw [fetchHost_writeReg fun hoff => Bool.eq_false_iff.mpr fun hv => hstart ⟨hoff, hv⟩] at h
      exact access _ h
  | readReg | writeSrc | readSrc | writeDst | readDst | reset => exact access _ h

/-! ### Invariants over steps -/

/-- A predicate that does not speak of the host's list of actions, and that every move of the engine and of the
host keeps, is kept by every step. -/
theorem step_keeps {P : State → Prop} (hpending : ∀ p s, P s → P (s.withPending p))
    (hengine : ∀ s t, EngineMove s t → P s → P t) (hhost : ∀ s t, HostMove s t → P s → P t)
    (hs : P s) (h : step s = .next t) : P t := by
  rw [step_eq_run_fetch] at h
  match hp : s.pending with
  | [] =>
    rw [fetch_of_pending_nil hp] at h
    exact hengine _ _ (engineMove_of_fetchEngine h) hs
  | { after := 0, act } :: rest =>
    rw [fetch_of_due hp] at h
    exact hhost _ _ (hostMove_of_fetchHost h) (hpending rest s hs)
  | { after := n + 1, act } :: rest =>
    rw [fetch_of_after_succ hp rfl] at h
    exact hengine _ _ (engineMove_of_fetchEngine h) (hpending _ s hs)

end

end Sys2Proof.Machine

/-! ## The invariants of the machine's state -/

namespace Sys2Proof.Machine

/-! ### Where the regions lie

What `InvRegion` asks of a state, by its sequencer state. -/

section
variable {s t : State}

theorem invRegion_elsewhere (hbuild : t.seq ≠ .buildTree) (hblock : inBlock t.seq = false) : InvRegion t := by
  cases hseq : t.seq <;> simp_all [InvRegion, inBlock, inBitstream]

theorem invRegion_buildTree (hseq : t.seq = .buildTree)
    (h : 0 < t.buildIndex.toNat → t.bitBase.toNat = 16 + 2 * t.ch.huffmanTreeByteLength.toNat ∧
      t.bitPosition.toNat + 1 = t.buildIndex.toNat) : InvRegion t := by
  simpa [InvRegion, hseq, inBitstream] using h

theorem invRegion_storedCopy (hseq : t.seq = .storedCopy) (h : t.blockStart.toNat + 4 ≤ t.srcLen.toNat) :
    InvRegion t := by
  simpa [InvRegion, hseq, inBitstream] using h

theorem invRegion_bitstream (hseq : inBitstream t.seq = true)
    (h : t.blockStart.toNat + 24 ≤ t.srcLen.toNat ∧ t.bitBase.toNat = t.blockStart.toNat + 24) :
    InvRegion t := by
  cases hq : t.seq <;> simp_all [InvRegion, inBitstream]

/-- After a block the next one begins within 16 bits of SRC_LEN, or the container is at its end. -/
theorem invRegion_at_block {n k : Half} (hseq : t.seq = if n = k then .finish else .blockHeader)
    (h : t.blockStart.toNat ≤ t.srcLen.toNat + 0xFFFF) : InvRegion t := by
  split at hseq
  · exact invRegion_elsewhere (by simp [hseq]) (by simp [hseq, inBlock, inBitstream])
  · simpa [InvRegion, hseq, inBitstream] using h

/-! What it gives back at a stored node, in a stored block, and in a bitstream. -/

theorem InvRegion.at_buildTree (hs : InvRegion s) (hseq : s.seq = .buildTree) (hpos : 0 < s.buildIndex.toNat) :
    s.bitBase.toNat = 16 + 2 * s.ch.huffmanTreeByteLength.toNat ∧
      s.bitPosition.toNat + 1 = s.buildIndex.toNat := by
  obtain ⟨hbuild, _, _, _⟩ := hs
  exact hbuild hseq hpos

theorem InvRegion.at_storedCopy (hs : InvRegion s) (hseq : s.seq = .storedCopy) :
    s.blockStart.toNat + 4 ≤ s.srcLen.toNat := by
  obtain ⟨_, _, hstored, _⟩ := hs
  exact hstored hseq

theorem InvRegion.at_bitstream (hs : InvRegion s) (hseq : inBitstream s.seq = true) :
    s.blockStart.toNat + 24 ≤ s.srcLen.toNat ∧ s.bitBase.toNat = s.blockStart.toNat + 24 := by
  obtain ⟨_, _, _, hstream⟩ := hs
  exact hstream hseq

/-! Each move that sets a region. -/

/-- The tree's region is set where construction begins (41_huffman.md R182 step (1)). -/
theorem invRegion_beginTree (hseq : s.seq = .buildTree) : InvRegion (beginTree s) := by
  refine invRegion_buildTree hseq fun _ => ⟨?_, rfl⟩
  rw [beginTree_bitBase, beginTree_ch, BitVec.toNat_ofNat]
  omega

/-- Each node takes one flag bit, so `bitPosition` stays one behind `i`; neither wraps, `i` being at most the
tree's size. -/
theorem InvRegion.buildNode (hs : InvRegion s) (leaf : Bool) (v : Byte) (hseq : s.seq = .buildTree)
    (hpos : 0 < s.buildIndex.toNat) (hle : s.buildIndex.toNat ≤ s.treeSize.toNat) :
    InvRegion { setTree s.buildIndex.toNat (storedNode leaf v) (advance 1 s) with
      buildIndex := s.buildIndex + 1 } := by
  obtain ⟨hbase, hbit⟩ := hs.at_buildTree hseq hpos
  refine invRegion_buildTree hseq fun _ => ⟨hbase, ?_⟩
  show (s.bitPosition + BitVec.ofNat 32 1).toNat + 1 = (s.buildIndex + 1).toNat
  have hsize : s.treeSize.toNat < 2 ^ 9 := s.treeSize.isLt
  bv_omega

/-- The block stream begins at most 590 bytes into the container (41_huffman.md R188). -/
theorem huffmanEnd_le (len : Byte) : huffmanEnd len ≤ 590 := by
  have hlen : len.toNat < 2 ^ 8 := len.isLt
  unfold huffmanEnd
  omega

theorem invRegion_endTree (s : State) : InvRegion (endTree s) := by
  refine invRegion_at_block (n := s.ch.blockCount) (k := 0) rfl ?_
  have hend := huffmanEnd_le s.ch.huffmanTreeByteLength
  rw [endTree_blockStart, BitVec.toNat_ofNat, Nat.mod_eq_of_lt (by omega)]
  omega

/-- A compressed block's header is within the source, so its bitstream's base does not wrap. -/
theorem invRegion_enterBitstream (hheader : s.blockStart.toNat + 24 ≤ s.srcLen.toNat) :
    InvRegion (enterBitstream s) := by
  refine invRegion_bitstream rfl ⟨hheader, ?_⟩
  rw [enterBitstream_bitBase, enterBitstream_blockStart, BitVec.toNat_ofNat]
  omega

/-- A stored block's framing moves `blockStart` by its 4 bytes of header and a 16-bit length. -/
theorem invRegion_endStoredBlock (hheader : s.blockStart.toNat + 4 ≤ s.srcLen.toNat) :
    InvRegion (endStoredBlock s) := by
  refine invRegion_at_block (endStoredBlock_seq s) ?_
  rw [endStoredBlock_blockStart, endStoredBlock_srcLen]
  bv_omega

/-- A compressed block's framing moves `blockStart` by a 16-bit length. -/
theorem invRegion_endCompressedBlock (hheader : s.blockStart.toNat + 24 ≤ s.srcLen.toNat) :
    InvRegion (endCompressedBlock s) := by
  refine invRegion_at_block (endCompressedBlock_seq s) ?_
  rw [endCompressedBlock_blockStart, endCompressedBlock_srcLen]
  bv_omega

/-- A run count ends the block, or goes on in its bitstream. -/
theorem InvRegion.loadRunCount (hs : InvRegion s) (r p : Word)
    (hseq : s.seq = .litCount ∨ s.seq = .matchCount) : InvRegion (loadRunCount r { s with bitPosition := p }) := by
  have hstream := hs.at_bitstream (by rcases hseq with h | h <;> rw [h] <;> rfl)
  rcases loadRunCount_cases r { s with bitPosition := p } with ⟨_, e⟩ | ⟨_, _, e⟩ | ⟨_, _, e⟩ <;> rw [e]
  · obtain ⟨hheader, _⟩ := hstream
    exact invRegion_endCompressedBlock hheader
  · exact invRegion_bitstream rfl hstream
  · exact invRegion_bitstream rfl hstream

theorem InvRegion.engineMove (hs : InvRegion s) (h : EngineMove s t) : InvRegion t := by
  cases h with
  | rest => exact hs
  | fail | finish => exact invRegion_elsewhere nofun rfl
  | acceptContainer => exact invRegion_buildTree rfl nofun
  | beginTree hseq => exact invRegion_beginTree hseq
  | buildNode leaf v hseq hpos hle => exact hs.buildNode leaf v hseq hpos hle
  | endTree => exact invRegion_endTree s
  | beginStored bh hseq hheader => exact invRegion_storedCopy rfl hheader
  | beginCompressed bh hseq hheader => exact invRegion_enterBitstream hheader
  | storedByte v hseq => exact invRegion_storedCopy hseq (hs.at_storedCopy hseq)
  | endStored hseq => exact invRegion_endStoredBlock (hs.at_storedCopy hseq)
  | runCount r p hseq => exact hs.loadRunCount r p hseq
  | descend n p hseq | matchLength len p hseq | copyByte v hseq =>
    have hin : inBitstream s.seq = true := by rw [hseq]; rfl
    exact invRegion_bitstream hin (hs.at_bitstream hin)
  | matchDistance len dist p hseq => exact invRegion_bitstream rfl (hs.at_bitstream (by rw [hseq]; rfl))
  | literal v hseq | endMatch hseq =>
    refine invRegion_bitstream ?_ (hs.at_bitstream (by rw [hseq]; rfl))
    simp only [endMatch_seq]
    split <;> rfl

/-- A state in which no decode runs has no region. -/
theorem invRegion_of_not_busy (h : busy t = false) : InvRegion t := by
  apply invRegion_elsewhere <;> cases hseq : t.seq <;> simp_all [busy, statusState, inBlock, inBitstream]

theorem InvRegion.hostMove (hs : InvRegion s) (h : HostMove s t) : InvRegion t := by
  cases h with
  | start p => exact invRegion_elsewhere nofun rfl
  | write _ _ _ _ _ hidle => exact invRegion_of_not_busy hidle
  | answer => exact hs
  | reset => exact invRegion_of_not_busy rfl

end

/-- Settles O56, over the moves of the engine and of the host. -/
theorem stepKeepsRegions : Obligations.StepKeepsRegions := fun _ _ =>
  step_keeps (fun _ _ hs => hs) (fun _ _ h hs => hs.engineMove h) (fun _ _ h hs => hs.hostMove h)

end Sys2Proof.Machine

namespace Sys2Proof.Machine

section
variable {s t : State}

/-! ### What the engine writes -/

/-- The destination is written at `writePos` alone, below DST_CAP, and `writePos` then moves by 1. -/
theorem EngineMove.output (h : EngineMove s t) :
    (t.writePos = s.writePos ∧ t.dst = s.dst) ∨
    (s.writePos.toNat < s.dstCap.toNat ∧ (s.seq = .litSymbol ∨ s.seq = .storedCopy ∨ s.seq = .matchCopy) ∧
      t.writePos = s.writePos + 1 ∧ ∃ v, t.dst = s.dst.write s.writePos.toNat v) := by
  cases h with
  | literal v hseq hcap => exact .inr ⟨hcap, .inl hseq, rfl, v, rfl⟩
  | storedByte v hseq hcap => exact .inr ⟨hcap, .inr (.inl hseq), rfl, v, rfl⟩
  | copyByte v hseq _ hcap => exact .inr ⟨hcap, .inr (.inr hseq), rfl, v, rfl⟩
  | runCount r p =>
    rcases loadRunCount_cases r { s with bitPosition := p } with ⟨_, e⟩ | ⟨_, _, e⟩ | ⟨_, _, e⟩ <;>
      rw [e] <;> exact .inl ⟨rfl, rfl⟩
  | _ => exact .inl ⟨rfl, rfl⟩

/-- A position below DST_CAP moves by 1 without wrapping. -/
theorem toNat_writePos_add_one (h : s.writePos.toNat < s.dstCap.toNat) :
    (s.writePos + 1).toNat = s.writePos.toNat + 1 := by
  bv_omega

/-! ### How the engine ends a decode -/

theorem busy_at_block {n k : Half} (hseq : t.seq = if n = k then .finish else .blockHeader) :
    busy t = true := by
  split at hseq <;> exact busy_of_seq hseq rfl

/-- A run count leaves the decode running and the host's registers as they are. -/
theorem loadRunCount_running (r : Word) (s : State) :
    busy (loadRunCount r s) = true ∧ (loadRunCount r s).code = s.code ∧
      (loadRunCount r s).result = s.result ∧ (loadRunCount r s).dstCap = s.dstCap := by
  rcases loadRunCount_cases r s with ⟨_, e⟩ | ⟨_, _, e⟩ | ⟨_, _, e⟩ <;> rw [e]
  · exact ⟨busy_at_block (endCompressedBlock_seq s), rfl, rfl, rfl⟩
  · exact ⟨rfl, rfl, rfl, rfl⟩
  · exact ⟨rfl, rfl, rfl, rfl⟩

/-- The decode runs before and after, with CODE, RESULT and DST_CAP as they were. -/
structure RunsOn (s t : State) : Prop where
  busy_before : busy s = true
  busy_after : busy t = true
  code : t.code = s.code
  result : t.result = s.result
  dstCap : t.dstCap = s.dstCap

/-- A step of the engine performs nothing, leaves the decode running, or ends it in ERROR or DONE. -/
theorem EngineMove.runs_or_ends (h : EngineMove s t) :
    t = s ∨ RunsOn s t ∨ (t.seq = .error ∧ ∃ e, t.code = failureCode e) ∨ (t.seq = .done ∧ t.code = 0) := by
  cases h with
  | rest => exact .inl rfl
  | fail e => exact .inr (.inr (.inl ⟨rfl, e, rfl⟩))
  | finish => exact .inr (.inr (.inr ⟨rfl, rfl⟩))
  | beginTree hseq | buildNode _ _ hseq | storedByte _ hseq | descend _ _ hseq | matchLength _ _ hseq
  | copyByte _ hseq =>
    have hbusy := busy_of_seq hseq rfl
    exact .inr (.inl ⟨hbusy, hbusy, rfl, rfl, rfl⟩)
  | acceptContainer _ hseq | beginStored _ hseq | beginCompressed _ hseq | matchDistance _ _ _ hseq =>
    exact .inr (.inl ⟨busy_of_seq hseq rfl, rfl, rfl, rfl, rfl⟩)
  | endTree hseq => exact .inr (.inl ⟨busy_of_seq hseq rfl, busy_at_block rfl, rfl, rfl, rfl⟩)
  | endStored hseq =>
    exact .inr (.inl ⟨busy_of_seq hseq rfl, busy_at_block (endStoredBlock_seq s), rfl, rfl, rfl⟩)
  | literal _ hseq | endMatch hseq =>
    refine .inr (.inl ⟨busy_of_seq hseq rfl, ?_, rfl, rfl, rfl⟩)
    simp only [busy, endMatch_seq]
    split <;> rfl
  | runCount r p hseq =>
    have hbusy : busy s = true := hseq.elim (busy_of_seq · rfl) (busy_of_seq · rfl)
    obtain ⟨ht, hcode, hresult, hcap⟩ := loadRunCount_running r { s with bitPosition := p }
    exact .inr (.inl ⟨hbusy, ht, hcode, hresult, hcap⟩)

/-! ### STATUS.CODE -/

theorem failureCode_mem (e : Failure) : failureCode e ∈ failureCodes := by
  cases e <;> decide

theorem ne_error_of_busy (h : busy s = true) : s.seq ≠ .error := by
  intro hseq
  rw [busy, hseq] at h
  cases h

theorem invStatus_of_code_zero (hseq : t.seq ≠ .error) (hcode : t.code = 0) : InvStatus t :=
  ⟨fun _ => hcode, fun h => absurd h hseq⟩

theorem InvStatus.engineMove (hs : InvStatus s) (h : EngineMove s t) : InvStatus t := by
  rcases h.runs_or_ends with rfl | hruns | ⟨hseq, e, hcode⟩ | ⟨hseq, hcode⟩
  · exact hs
  · obtain ⟨hcode, _⟩ := hs
    have hcode := hcode (ne_error_of_busy hruns.busy_before)
    exact invStatus_of_code_zero (ne_error_of_busy hruns.busy_after) (hruns.code.trans hcode)
  · exact ⟨fun hne => absurd hseq hne, fun _ => hcode ▸ failureCode_mem e⟩
  · exact invStatus_of_code_zero (by simp [hseq]) hcode

theorem InvStatus.hostMove (hs : InvStatus s) (h : HostMove s t) : InvStatus t := by
  cases h with
  | start | reset => exact invStatus_of_code_zero nofun rfl
  | write | answer => exact hs

/-! ### The bounds of `writePos` -/

theorem InvBounds.engineMove (hs : InvBounds s) (h : EngineMove s t) : InvBounds t := by
  intro hbusy
  rcases h.runs_or_ends with rfl | hruns | ⟨hseq, _⟩ | ⟨hseq, _⟩
  · exact hs hbusy
  · obtain ⟨hpos, hzero⟩ := hs hruns.busy_before
    refine ⟨?_, hruns.result.trans hzero⟩
    rw [hruns.dstCap]
    rcases h.output with ⟨hsame, _⟩ | ⟨hlt, _, hmoved, _⟩
    · rwa [hsame]
    · rw [hmoved, toNat_writePos_add_one hlt]
      exact hlt
  · exact absurd hseq (ne_error_of_busy hbusy)
  · rw [busy, hseq] at hbusy
    cases hbusy

theorem InvBounds.hostMove (hs : InvBounds s) (h : HostMove s t) : InvBounds t := by
  cases h with
  | start => exact fun _ => ⟨Nat.zero_le _, rfl⟩
  | write _ _ _ _ _ hidle => exact fun hbusy => absurd (hidle.symm.trans hbusy) nofun
  | answer => exact hs
  | reset => exact nofun

end

/-- Settles O52, over the moves of the engine and of the host. -/
theorem stepKeepsStatusCode : Obligations.StepKeepsStatusCode := fun _ _ =>
  step_keeps (fun _ _ hs => hs) (fun _ _ h hs => hs.engineMove h) (fun _ _ h hs => hs.hostMove h)

/-- Settles O53, over the moves of the engine and of the host. -/
theorem stepKeepsWriteBounds : Obligations.StepKeepsWriteBounds := fun _ _ =>
  step_keeps (fun _ _ hs => hs) (fun _ _ h hs => hs.engineMove h) (fun _ _ h hs => hs.hostMove h)

/-- Settles O58: the engine's moves write by appending. -/
theorem outputIsSequential : Obligations.OutputIsSequential := by
  intro s t hp h
  rcases (engineMove_of_step hp h).output with hsame | ⟨hlt, hseq, hpos, v, hdst⟩
  · exact .inl hsame
  · refine .inr ⟨hlt, by rw [hpos, toNat_writePos_add_one hlt], hseq, fun a ha => ?_⟩
    rw [hdst, Memory.read_write_other _ v ha]

/-! ### Reset -/

/-- Settles O44, by evaluating the reset state. -/
theorem resetStateHoldsSpecValues : Obligations.ResetStateHoldsSpecValues := by
  unfold Obligations.ResetStateHoldsSpecValues
  decide

/-- Settles O50: at reset the memories are empty, CODE is 0, and the sequencer is IDLE, where the other
invariants ask nothing. -/
theorem resetMeetsInvariants : Obligations.ResetMeetsInvariants :=
  ⟨⟨rfl, rfl⟩, invStatus_of_code_zero nofun rfl, nofun, nofun, ⟨nofun, nofun, nofun⟩,
    ⟨nofun, nofun, nofun⟩, invRegion_of_not_busy rfl⟩

/-! ### The host's register accesses -/

/-- A due action that is no START write is the host's access. -/
theorem step_of_due {s : State} {act : HostAct} {rest : List HostEvent}
    (hp : s.pending = { after := 0, act := act } :: rest)
    (hact : fetchHost act { s with pending := rest } = .other (hostAccess act { s with pending := rest })) :
    step s = hostAccess act { s with pending := rest } := by
  rw [step_eq_run_fetch, fetch_of_due hp, hact, Fetched.run]

/-- Settles O4: the due write is fetched as CMD.START. -/
theorem startWriteRunsStart : Obligations.StartWriteRunsStart := by
  intro s v rest hp hstart
  rw [step_eq_run_fetch, fetch_of_due hp, fetchHost_start hstart, Fetched.run]

/-- The fields of STATUS, laid side by side or shifted into place. -/
theorem append_eq_shiftLeft_or (c : Byte) (q : BitVec 2) :
    (0 : Half) ++ c ++ (0 : BitVec 6) ++ q = (c.setWidth 32 <<< 8) ||| (q.setWidth 32 : Word) := by
  ext i hi
  simp
  grind

/-- STATUS has CODE in bits 15:8 and STATE in bits 1:0 (10_state.md R33). -/
theorem statusWord_eq (s : State) : statusWord s = (s.code.setWidth 32 <<< 8) |||
    (match s.seq with | .idle => 0 | .done => 2 | .error => 3 | _ => 1) := by
  rw [statusWord, append_eq_shiftLeft_or]
  cases s.seq <;> rfl

/-- PARAM has MATCH_FALLBACK in bit 2 and LEAF_RULE in bits 1:0 (10_state.md R54). -/
theorem paramWord_eq (s : State) : paramWord s = (match s.matchFallback with | .base0 => 0 | .selector => 4) |||
    (match s.leafRule with
      | .flagClearIsLeaf => 0 | .flagSetIsLeaf => 1 | .allInternal => 2 | .childOutOfRange => 3) := by
  unfold paramWord
  cases s.matchFallback <;> cases s.leafRule <;> rfl

/-- A register the host may rely on answers what it holds (70_reset_and_hazards.md R353). -/
theorem hostAccess_readReg {off : Word} {s : State} (h : busy s = true → openWhileBusy off = false) :
    hostAccess (.readReg off) s = .next { s with readData := regRead off s } := by
  have hclosed : (busy s && openWhileBusy off) = false := by
    cases hbusy : busy s with
    | false => rfl
    | true => exact h hbusy
  rw [hostAccess, hclosed]
  rfl

/-- Settles O46: the read is of a register that is not open, whose value the two field laws lay out. -/
theorem hostReadsRegisters : Obligations.HostReadsRegisters := by
  intro s off rest hopen hp
  have hread := hostAccess_readReg (s := { s with pending := rest })
    fun hbusy => decide_eq_false (hopen hbusy)
  rw [step_of_due hp rfl, hread]
  show Host.Outcome.next { s with pending := rest, readData := regRead off s } = _
  rw [regRead, statusWord_eq, paramWord_eq] <;> rfl

section
variable {s : State} (v : Word) (h : busy s = false)
include h

theorem regWrite_ctrl : regWrite 0x00 v s = { s with srcPresent := v.getLsbD 1 } := by
  rw [regWrite, h]
  rfl

theorem regWrite_srcLen : regWrite 0x08 v s = { s with srcLen := v } := by
  rw [regWrite, h]
  rfl

theorem regWrite_dstCap : regWrite 0x0C v s = { s with dstCap := v } := by
  rw [regWrite, h]
  rfl

theorem regWrite_other {off : Word} (h0 : off ≠ 0x00) (h8 : off ≠ 0x08) (hC : off ≠ 0x0C) :
    regWrite off v s = s := by
  rw [regWrite, h, if_neg nofun, if_neg h0, if_neg h8, if_neg hC]

end

/-- Settles O47, by the write's law at each offset. -/
theorem hostWritesRegisters : Obligations.HostWritesRegisters := by
  intro s off v rest hidle hp
  have hwrite (h : off = 0 → v.getLsbD 0 = false) :
      step s = .next (regWrite off v { s with pending := rest }) :=
    step_of_due hp (fetchHost_writeReg h _)
  have hidle' : busy { s with pending := rest } = false := hidle
  refine ⟨?_, ?_, ?_, ?_⟩
  · rintro rfl hv
    rw [hwrite fun _ => hv, regWrite_ctrl v hidle']
  · rintro rfl
    rw [hwrite nofun, regWrite_srcLen v hidle']
  · rintro rfl
    rw [hwrite nofun, regWrite_dstCap v hidle']
  · intro h0 h8 hC
    rw [hwrite fun h => absurd h h0, regWrite_other v hidle' h0 h8 hC]

end Sys2Proof.Machine

/-! ## What the engine leaves to the host

The launch inputs and the parameters are the host's; the tree is written by its construction alone. -/

namespace Sys2Proof.Machine

/-- The source, the launch inputs (20_memory.md R80, R100) and PARAM (10_state.md R54) of `t` are those of `s`. -/
structure SameInputs (s t : State) : Prop where
  src : t.src = s.src
  srcLen : t.srcLen = s.srcLen
  dstCap : t.dstCap = s.dstCap
  srcPresent : t.srcPresent = s.srcPresent
  leafRule : t.leafRule = s.leafRule
  matchFallback : t.matchFallback = s.matchFallback

/-- The tree array and its size in `t` are those of `s` (41_huffman.md R189). -/
structure SameTree (s t : State) : Prop where
  tree : t.tree = s.tree
  treeSize : t.treeSize = s.treeSize

section
variable {s t : State}

/-- A run count ends the block or begins a run; all three ways leave the inputs and the tree. -/
theorem loadRunCount_keeps (r : Word) (s : State) :
    SameInputs s (loadRunCount r s) ∧ SameTree s (loadRunCount r s) := by
  rcases loadRunCount_cases r s with ⟨_, e⟩ | ⟨_, _, e⟩ | ⟨_, _, e⟩ <;>
    rw [e] <;> exact ⟨⟨rfl, rfl, rfl, rfl, rfl, rfl⟩, ⟨rfl, rfl⟩⟩

/-- No move of the engine writes an input: what it writes are other fields of the state. -/
theorem EngineMove.sameInputs (h : EngineMove s t) : SameInputs s t := by
  cases h with
  | runCount r p =>
    obtain ⟨⟨hsrc, hlen, hcap, hpresent, hrule, hfallback⟩, _⟩ := loadRunCount_keeps r { s with bitPosition := p }
    exact ⟨hsrc, hlen, hcap, hpresent, hrule, hfallback⟩
  | _ => exact ⟨rfl, rfl, rfl, rfl, rfl, rfl⟩

/-- The moves that write the tree, its root's and a stored node's, are made in BUILD_TREE. -/
theorem EngineMove.sameTree (h : EngineMove s t) (helsewhere : s.seq ≠ .buildTree) : SameTree s t := by
  cases h with
  | beginTree hseq | buildNode _ _ hseq => exact absurd hseq helsewhere
  | runCount r p =>
    obtain ⟨_, htree, hsize⟩ := loadRunCount_keeps r { s with bitPosition := p }
    exact ⟨htree, hsize⟩
  | _ => exact ⟨rfl, rfl⟩

end

/-- Settles O57, over the engine's moves. -/
theorem engineKeepsInputs : Obligations.EngineKeepsInputs := by
  intro s t hp h
  have hmove := engineMove_of_step hp h
  obtain ⟨hsrc, hlen, hcap, hpresent, hrule, hfallback⟩ := hmove.sameInputs
  refine ⟨hsrc, hlen, hcap, hpresent, hrule, hfallback, fun helsewhere => ?_⟩
  obtain ⟨htree, hsize⟩ := hmove.sameTree helsewhere
  exact ⟨htree, hsize⟩

end Sys2Proof.Machine

/-! ## Code words and their bits

The decoder is tied to the encoder, and both to the stream: a code word is the bits of its path through the tree of
reads that its format has (30_encoding.md R140 to R149). -/

namespace Sys2Proof

/-! ### Decoding what was encoded -/

theorem Instr.fieldFits_of_wf {bh : BlockHeader} {i : Instr} {w : Nat} (h : i.wf bh = true)
    (hw : i.fieldWidth bh = some w) : fieldFits w i.fieldValue = true := by
  simp only [Instr.wf, hw, Bool.and_eq_true] at h
  exact h.1

/-- A last field that fits its width is read back whole (30_encoding.md R150 (b), R153). -/
theorem decodeTree_field {w : Nat} {v : Half} (mk : Half → Instr) (rest : List Bool)
    (h : fieldFits w v = true) : decodeTree (.field w mk) (bitsOf w v.toNat ++ rest) = .ok (mk v, rest) := by
  obtain ⟨hw, hv⟩ : w ≤ 16 ∧ v.toNat < 2 ^ w := by simpa [fieldFits] using h
  simp only [decodeTree, if_neg (Nat.not_lt.mpr hw), takeBits_bitsOf_append, Nat.mod_eq_of_lt hv,
    BitVec.ofNat_toNat, BitVec.setWidth_eq]

/-- The two halves of a block word are its lengths, and the high one selects the kind (30_encoding.md R132). -/
theorem decodeBlockWord_append (c u : Half) :
    decodeBlockWord (c ++ u) = if c = 0 then .blockStored u else .blockCompressed u c := by
  have hhigh : (c ++ u : Word).extractLsb' 16 16 = c := BitVec.extractLsb'_append_eq_left
  have hlow : (c ++ u : Word).extractLsb' 0 16 = u := BitVec.extractLsb'_append_eq_right
  rw [decodeBlockWord, hhigh, hlow]

/-- Settles O5. The first bits of a code word lead the decoder to its last field, which is read back; a word format
is its own inverse. -/
theorem decodeEncodeRoundTrip : Obligations.DecodeEncodeRoundTrip := by
  intro bh i rest hwf
  cases i with
  | lrExt1 v | lrExt2 v | lrExt3 v | mcExt1 v | mcExt2 v | mcExt3 v | of0 v | of1 v | of2 v | of3 v =>
    exact decodeTree_field _ rest (Instr.fieldFits_of_wf hwf rfl)
  | blockStored u =>
    exact congrArg (fun i => Except.ok (i, [])) (decodeBlockWord_append 0 u)
  | blockCompressed u c =>
    have hc : c ≠ 0 := by simpa [Instr.wf, Instr.fieldWidth] using hwf
    have hword : decodeBlockWord (c ++ u) = .blockCompressed u c := by rw [decodeBlockWord_append, if_neg hc]
    exact congrArg (fun i => Except.ok (i, [])) hword
  | container => rfl
  | cmdStart p => cases p <;> rfl
  | _ => rfl

/-! ### The codes against the encoder

One predicate ties the tree of reads of a format to the encoder's table, row by row; what decoding consumes, and that
it never fails on a long enough stream, follow for every tree that has it. -/

/-- Every path of reads, the bits `pre` behind it, ends in an instruction that the encoder writes as the bits of the
path; at most 3 bits select it, and the field comes last (30_encoding.md R141 to R145, R147). -/
def CodeTree.Writes (bh : BlockHeader) : CodeTree → List Bool → Prop
  | .instr i, pre => encode bh i = .bits pre
  | .field w mk, pre =>
    ∀ v, (mk v).fieldWidth bh = some w ∧ encode bh (mk v) = .bits (pre ++ bitsOf w v.toNat)
  | .read n k, pre => pre.length + n ≤ 3 ∧ ∀ v < 2 ^ n, (k v).Writes bh (pre ++ bitsOf n v)

theorem CodeTree.writes_codeLr (bh : BlockHeader) : (codeLr bh).Writes bh [] := by
  refine ⟨by decide, fun t ht => ?_⟩
  interval_cases t
  · refine ⟨by decide, fun s hs => ?_⟩
    interval_cases s
    · rfl
    all_goals exact fun _ => ⟨rfl, rfl⟩
  · rfl

theorem CodeTree.writes_codeMc (bh : BlockHeader) : (codeMc bh).Writes bh [] := by
  refine ⟨by decide, fun s hs => ?_⟩
  interval_cases s
  · rfl
  all_goals
    refine ⟨by decide, fun b hb => ?_⟩
    interval_cases b
    · rfl
    · exact fun _ => ⟨rfl, rfl⟩

theorem CodeTree.writes_codeOf (bh : BlockHeader) : (codeOf bh).Writes bh [] := by
  refine ⟨by decide, fun s hs => ?_⟩
  interval_cases s <;> exact fun _ => ⟨rfl, rfl⟩

theorem CodeTree.writes_codeHuf (bh : BlockHeader) : codeHuf.Writes bh [] := by
  refine ⟨by decide, fun b hb => ?_⟩
  interval_cases b <;> rfl

theorem CodeTree.writes_codeTf (bh : BlockHeader) : codeTf.Writes bh [] := by
  refine ⟨by decide, fun f hf => ?_⟩
  interval_cases f <;> rfl

theorem CodeTree.writes_codeOfFormat {bh : BlockHeader} {f : Format} {t : CodeTree}
    (h : codeOfFormat bh f = some t) : t.Writes bh [] := by
  cases f with
  | lr => exact Option.some.inj h ▸ writes_codeLr bh
  | mc => exact Option.some.inj h ▸ writes_codeMc bh
  | off => exact Option.some.inj h ▸ writes_codeOf bh
  | huf => exact Option.some.inj h ▸ writes_codeHuf bh
  | tf => exact Option.some.inj h ▸ writes_codeTf bh
  | block | container | hostreg => nomatch h

theorem CodeTree.all_codeOfFormat {bh : BlockHeader} {f : Format} {t : CodeTree}
    (h : codeOfFormat bh f = some t) : t.All fun i => i.format = f := by
  cases f with
  | lr => exact Option.some.inj h ▸ all_codeLr bh
  | mc => exact Option.some.inj h ▸ all_codeMc bh
  | off => exact Option.some.inj h ▸ all_codeOf bh
  | huf => exact Option.some.inj h ▸ all_codeHuf
  | tf => exact Option.some.inj h ▸ all_codeTf
  | block | container | hostreg => nomatch h

/-! ### What decoding consumes -/

/-- A read that decodes took the bits of a value that selects the rest. -/
theorem decodeTree_read_ok {n : Nat} {k : Nat → CodeTree} {l rest : List Bool} {i : Instr}
    (h : decodeTree (.read n k) l = .ok (i, rest)) :
    ∃ v l', v < 2 ^ n ∧ l = bitsOf n v ++ l' ∧ decodeTree (k v) l' = .ok (i, rest) := by
  rw [decodeTree] at h
  split at h
  · rename_i v l' htake
    obtain ⟨hlt, hl⟩ := takeBits_some htake
    exact ⟨v, l', hlt, hl, h⟩
  · cases h

/-- A field that decodes was too wide to be read, or took the bits of its value. -/
theorem decodeTree_field_ok {w : Nat} {mk : Half → Instr} {l rest : List Bool} {i : Instr}
    (h : decodeTree (.field w mk) l = .ok (i, rest)) :
    (16 < w ∧ i = mk 0 ∧ l = rest) ∨
    (w ≤ 16 ∧ ∃ v : Half, v.toNat < 2 ^ w ∧ i = mk v ∧ l = bitsOf w v.toNat ++ rest) := by
  rw [decodeTree] at h
  split at h
  · cases h
    exact .inl ⟨‹_›, rfl, rfl⟩
  · split at h
    · rename_i v l' htake
      cases h
      obtain ⟨hlt, hl⟩ := takeBits_some htake
      have hw : w ≤ 16 := by omega
      have hv : (BitVec.ofNat 16 v).toNat = v :=
        Nat.mod_eq_of_lt (hlt.trans_le (Nat.pow_le_pow_right (by decide) hw))
      exact .inr ⟨hw, BitVec.ofNat 16 v, by rwa [hv], rfl, by rwa [hv]⟩
    · cases h

/-- The bits that decoding consumed end the code that the encoder writes: by induction on the reads. -/
theorem CodeTree.Writes.encode_of_decodeTree {bh : BlockHeader} {t : CodeTree} {pre l rest : List Bool}
    {i : Instr} (ht : t.Writes bh pre) (h : decodeTree t l = .ok (i, rest)) (hwf : i.wf bh = true) :
    ∃ c, encode bh i = .bits (pre ++ c) ∧ l = c ++ rest := by
  induction t generalizing pre l with
  | instr j =>
    cases h
    exact ⟨[], by rwa [List.append_nil], rfl⟩
  | field w mk =>
    rcases decodeTree_field_ok h with ⟨hw, rfl, _⟩ | ⟨_, v, _, rfl, hl⟩
    · obtain ⟨hwidth, _⟩ := ht 0
      have hfit := Instr.fieldFits_of_wf hwf hwidth
      simp only [fieldFits, Bool.and_eq_true, decide_eq_true_eq] at hfit
      omega
    · exact ⟨_, (ht v).2, hl⟩
  | read n k ih =>
    obtain ⟨v, l', hv, rfl, hrest⟩ := decodeTree_read_ok h
    obtain ⟨c, henc, rfl⟩ := ih v (ht.2 v hv) hrest
    exact ⟨bitsOf n v ++ c, by rw [henc, List.append_assoc], by rw [List.append_assoc]⟩

theorem decode_bits {f : Format} {bh : BlockHeader} {t : CodeTree} (h : codeOfFormat bh f = some t)
    (l : List Bool) : decode f bh (.bits l) = decodeTree t l := by
  unfold decode
  rw [h]

theorem codeOfFormat_of_decode_bits {f : Format} {bh : BlockHeader} {l : List Bool} {x : Instr × List Bool}
    (h : decode f bh (.bits l) = .ok x) : ∃ t, codeOfFormat bh f = some t ∧ decodeTree t l = .ok x := by
  cases f with
  | block | container | hostreg => nomatch h
  | _ => exact ⟨_, rfl, h⟩

/-- Settles O6: the codes of every bit format are what the encoder writes. -/
theorem encodeDecodeRoundTrip : Obligations.EncodeDecodeRoundTrip := by
  intro f bh l i rest h hwf
  obtain ⟨t, ht, h⟩ := codeOfFormat_of_decode_bits h
  exact (CodeTree.writes_codeOfFormat ht).encode_of_decodeTree h hwf

/-! ### Every pattern decodes -/

/-- An instruction that was decoded is one its code can end in. -/
theorem decodeTree_all {P : Instr → Prop} {t : CodeTree} {l rest : List Bool} {i : Instr} (ht : t.All P)
    (h : decodeTree t l = .ok (i, rest)) : P i := by
  induction t generalizing l with
  | instr j =>
    cases h
    exact ht
  | field w mk =>
    rcases decodeTree_field_ok h with ⟨_, rfl, _⟩ | ⟨_, v, _, rfl, _⟩
    · exact ht 0
    · exact ht v
  | read n k ih =>
    obtain ⟨v, _, _, _, hrest⟩ := decodeTree_read_ok h
    exact ih v (ht v) hrest

theorem decodeTree_length_le {t : CodeTree} {l rest : List Bool} {i : Instr}
    (h : decodeTree t l = .ok (i, rest)) : rest.length ≤ l.length := by
  induction t generalizing l with
  | instr j =>
    cases h
    exact le_rfl
  | field w mk =>
    rcases decodeTree_field_ok h with ⟨_, _, rfl⟩ | ⟨_, v, _, _, rfl⟩
    · exact le_rfl
    · simp
  | read n k ih =>
    obtain ⟨v, l', _, rfl, hrest⟩ := decodeTree_read_ok h
    exact (ih v hrest).trans (by simp)

theorem takeBits_eq_some {n : Nat} {l : List Bool} (h : n ≤ l.length) :
    ∃ v rest, takeBits n l = some (v, rest) := by
  obtain ⟨⟨v, rest⟩, e⟩ := Option.isSome_iff_exists.mp ((takeBits_isSome n l).trans (decide_eq_true h))
  exact ⟨v, rest, e⟩

/-- The selecting bits and the widest field together are 19, and with that many to come a code decodes. -/
theorem CodeTree.Writes.decodes {bh : BlockHeader} {t : CodeTree} {pre l : List Bool} (ht : t.Writes bh pre)
    (hpre : pre.length ≤ 3) (hl : 19 ≤ pre.length + l.length) : ∃ x, decodeTree t l = .ok x := by
  induction t generalizing pre l with
  | instr i => exact ⟨_, rfl⟩
  | field w mk =>
    rw [decodeTree]
    split
    · exact ⟨_, rfl⟩
    · obtain ⟨v, rest, e⟩ := takeBits_eq_some (n := w) (l := l) (by omega)
      exact ⟨_, by rw [e]⟩
  | read n k ih =>
    obtain ⟨hn, hk⟩ := ht
    obtain ⟨v, l', e⟩ := takeBits_eq_some (n := n) (l := l) (by omega)
    obtain ⟨hv, rfl⟩ := takeBits_some e
    rw [decodeTree, e]
    simp only [List.length_append, length_bitsOf] at hl
    exact ih v (hk v hv) (by simpa using hn) (by simp; omega)

/-- Every code of a bit format begins with a read of at least one bit. -/
theorem codeOfFormat_eq_read {bh : BlockHeader} {f : Format} {t : CodeTree} (h : codeOfFormat bh f = some t) :
    ∃ n k, t = .read (n + 1) k := by
  cases f with
  | block | container | hostreg => nomatch h
  | _ => exact ⟨_, _, (Option.some.inj h).symm⟩

/-- Settles O7: a code of at most 19 bits decodes in its own format, and its first read takes at least one bit. -/
theorem everyBitPatternDecodes : Obligations.EveryBitPatternDecodes := by
  intro f bh l hsome hl
  obtain ⟨t, ht⟩ := Option.isSome_iff_exists.mp hsome
  obtain ⟨⟨i, rest⟩, h⟩ := (CodeTree.writes_codeOfFormat ht).decodes (by decide) (by simpa using hl)
  have hformat := decodeTree_all (CodeTree.all_codeOfFormat ht) h
  have hdecode := (decode_bits ht l).trans h
  obtain ⟨n, k, rfl⟩ := codeOfFormat_eq_read ht
  obtain ⟨v, l', _, rfl, hrest⟩ := decodeTree_read_ok h
  have hle := decodeTree_length_le hrest
  exact ⟨i, rest, hdecode, hformat, by simp; omega⟩

/-! ### The word formats -/

/-- The mask keeps the high half of a block word. -/
theorem and_highMask (w : Word) : w &&& 0xFFFF0000 = w.extractLsb' 16 16 ++ 0#16 := by
  have hw : w.extractLsb' 16 16 ++ w.extractLsb' 0 16 = w := BitVec.extractLsb'_append_extractLsb'
  calc w &&& 0xFFFF0000
      = (w.extractLsb' 16 16 ++ w.extractLsb' 0 16) &&& (BitVec.allOnes 16 ++ 0#16) := by rw [hw]; rfl
    _ = w.extractLsb' 16 16 ++ 0#16 := by rw [BitVec.and_append, BitVec.and_allOnes, BitVec.and_zero]

/-- Settles O8: the masked word is 0 exactly when the high half is. -/
theorem blockWordKindIsItsHighHalf : Obligations.BlockWordKindIsItsHighHalf := by
  intro w
  have hlow : w.setWidth 16 = w.extractLsb' 0 16 := BitVec.setWidth_eq_extractLsb' (by decide)
  have hhigh : (w >>> 16).setWidth 16 = w.extractLsb' 16 16 := BitVec.setWidth_ushiftRight_eq_extractLsb
  have hzero : w &&& 0xFFFF0000 = 0 ↔ w.extractLsb' 16 16 = 0 := by
    rw [and_highMask]
    exact BitVec.append_left_inj (s₂ := 0#16) 0#16
  rw [Ne, hzero, hlow, hhigh, decodeBlockWord]
  exact ⟨fun h => if_pos h, fun h => if_neg h⟩

/-- Settles O9, by running the decoder on the ten words. -/
theorem sampleWordsDecode : Obligations.SampleWordsDecode := by
  unfold Obligations.SampleWordsDecode
  decide

end Sys2Proof

/-! ## The bitstream

`ReadBits` against the stream bits of the current region (20_memory.md R84, 40_bitcursor.md R162 to R167). -/

namespace Sys2Proof

/-- Bit `k` in consumption order is bit `n - 1 - k` of the value (30_encoding.md R140). -/
theorem bitsOf_eq_map_range (n v : Nat) : bitsOf n v = (List.range n).map fun k => v.testBit (n - 1 - k) := by
  induction n with
  | zero => rfl
  | succ n ih =>
    rw [bitsOf, ih, List.range_succ_eq_map, List.map_cons, List.map_map]
    refine congrArg₂ _ rfl (List.map_congr_left fun k _ => congrArg v.testBit ?_)
    simp
    omega

theorem bitsOf_inj {n v w : Nat} (hv : v < 2 ^ n) (hw : w < 2 ^ n) (h : bitsOf n v = bitsOf n w) : v = w := by
  have htake := takeBits_bitsOf_append n v []
  rw [h, takeBits_bitsOf_append, Nat.mod_eq_of_lt hv, Nat.mod_eq_of_lt hw] at htake
  cases htake
  rfl

end Sys2Proof

namespace Sys2Proof.Machine

/-! ### The words of the bitstream -/

/-- Word `j` of the current region (20_memory.md R84). -/
def streamWord (s : State) (j : Nat) : Half :=
  le16 (s.src.read (s.bitBase.toNat + 2 * j)) (s.src.read (s.bitBase.toNat + 2 * j + 1))

theorem streamBit_eq (s : State) (j : Nat) : streamBit s j = (streamWord s (j / 16)).getLsbD (15 - j % 16) := rfl

theorem srcRead16_streamWord {s : State} {j : Nat} (h : s.bitBase.toNat + 2 * j + 1 < s.srcLen.toNat) :
    srcRead16 (s.bitBase.toNat + 2 * j) s = .ok (streamWord s j) s := srcRead16_ok h

/-- Bit `i` of a read that fits in one word (40_bitcursor.md R162 step (3)). -/
theorem getLsbD_windowBits (w0 : Half) {o n : Nat} (h : o + n ≤ 16) (i : Nat) :
    (windowBits w0 o n).getLsbD i = (decide (i < n) && w0.getLsbD (16 - o - n + i)) := by
  simp only [windowBits, BitVec.getLsbD_ushiftRight, BitVec.getLsbD_shiftLeft]
  by_cases hi : i < n
  · have e : 16 - n + i - o = 16 - o - n + i := by omega
    simp [hi, e]
    omega
  · simp [hi]
    omega

/-- Bit `i` of a read that crosses into a second word: its low bits are that word's (R162 step (4)). -/
theorem getLsbD_straddleBits (w0 w1 : Half) {o n : Nat} (ho : o < 16) (hn : n ≤ 16) (h : 16 < o + n)
    (i : Nat) : (straddleBits w0 w1 o n).getLsbD i = (decide (i < n) &&
      if i < o + n - 16 then w1.getLsbD (32 - o - n + i) else w0.getLsbD (i - (o + n - 16))) := by
  simp only [straddleBits, BitVec.getLsbD_or, BitVec.getLsbD_ushiftRight, BitVec.getLsbD_shiftLeft,
    BitVec.getLsbD_and]
  have hk : n + o - 16 = o + n - 16 := by omega
  rw [hk]
  by_cases hi : i < o + n - 16
  · have e : 16 - (o + n - 16) + i = 32 - o - n + i := by omega
    have hin : i < n := by omega
    simp [hi, e, hin]
  · have hw1 : w1.getLsbD (16 - (o + n - 16) + i) = false := BitVec.getLsbD_of_ge _ _ (by omega)
    have hmask : (0xFFFF : Half).getLsbD (o + (i - (o + n - 16))) = decide (o + (i - (o + n - 16)) < 16) := by
      exact BitVec.getLsbD_allOnes
    simp only [hw1, hmask, hi]
    by_cases hin : i < n
    · have : i < 16 := by omega
      have : o + (i - (o + n - 16)) < 16 := by omega
      simp [*]
    · have : ¬ o + (i - (o + n - 16)) < 16 := by omega
      simp [*]

/-! ### ReadBits on the bitstream -/

/-- A read of readable bits answers them, whether they fit in one word or cross into a second. -/
theorem readBits_of_readable {s : State} {n : Nat} (hpos : 0 < n) (hn : n ≤ 16) (h : readable s n) :
    ∃ v, readBits n s = .ok v (advance n s) ∧
      ∀ i, v.getLsbD i = (decide (i < n) && streamBit s (s.bitPosition.toNat + (n - 1 - i))) := by
  obtain ⟨hpos32, hlen⟩ := h
  rw [readBits, if_neg (by omega), if_neg (by omega), if_neg (by omega)]
  simp only
  rw [srcRead16_streamWord (by omega), Res.bind_ok]
  split
  next hfit =>
    refine ⟨_, rfl, fun i => ?_⟩
    rw [getLsbD_windowBits _ (by omega), streamBit_eq]
    by_cases hi : i < n
    · have hword : (s.bitPosition.toNat + (n - 1 - i)) / 16 = s.bitPosition.toNat / 16 := by omega
      rw [hword]
      congr 2
      omega
    · simp [hi]
  next hfit =>
    have hnext : s.bitBase.toNat + 2 * (s.bitPosition.toNat / 16) + 2 =
        s.bitBase.toNat + 2 * (s.bitPosition.toNat / 16 + 1) := by omega
    rw [hnext, srcRead16_streamWord (by omega), Res.bind_ok]
    refine ⟨_, rfl, fun i => ?_⟩
    rw [getLsbD_straddleBits _ _ (by omega) hn (by omega), streamBit_eq]
    by_cases hi : i < n
    · split
      next hlow =>
        have hword : (s.bitPosition.toNat + (n - 1 - i)) / 16 = s.bitPosition.toNat / 16 + 1 := by omega
        rw [hword]
        congr 2
        omega
      next hhigh =>
        have hword : (s.bitPosition.toNat + (n - 1 - i)) / 16 = s.bitPosition.toNat / 16 := by omega
        rw [hword]
        congr 2
        omega
    · simp [hi]

/-- `ReadBits` returns the next stream bits, the first the most significant (40_bitcursor.md R167). -/
theorem readBits_eq_streamFrom {s : State} {n : Nat} (hpos : 0 < n) (hn : n ≤ 16) (h : readable s n) :
    ∃ v, readBits n s = .ok v (advance n s) ∧ v.toNat < 2 ^ n ∧ bitsOf n v.toNat = streamFrom s n := by
  obtain ⟨v, hread, hbit⟩ := readBits_of_readable hpos hn h
  refine ⟨v, hread, Nat.lt_pow_two_of_testBit _ fun i hi => ?_, ?_⟩
  · rw [BitVec.testBit_toNat, hbit, decide_eq_false (by omega), Bool.false_and]
  · rw [bitsOf_eq_map_range, streamFrom]
    refine List.map_congr_left fun k hk => ?_
    have hk : k < n := List.mem_range.mp hk
    rw [BitVec.testBit_toNat, hbit, decide_eq_true (by omega), Bool.true_and]
    congr 2
    omega

/-- A read that is not all below SRC_LEN raises at its lowest offset out of range, be it in the first word or in the
second (40_bitcursor.md R166). -/
theorem readBits_overrun {s : State} {n : Nat} (hpos : 0 < n) (hn : n ≤ 16)
    (hpos32 : s.bitPosition.toNat + n ≤ 2 ^ 32 - 1)
    (hlen : s.srcLen.toNat ≤ s.bitBase.toNat + 2 * ((s.bitPosition.toNat + n - 1) / 16) + 1) :
    readBits n s = raise .sourceOverrun
      (max (s.bitBase.toNat + 2 * (s.bitPosition.toNat / 16)) s.srcLen.toNat) s := by
  rw [readBits, if_neg (by omega), if_neg (by omega), if_neg (by omega)]
  simp only
  rcases srcRead16_cases (s.bitBase.toNat + 2 * (s.bitPosition.toNat / 16)) s with ⟨hfirst, e⟩ | ⟨_, e⟩
  · rcases srcRead16_cases (s.bitBase.toNat + 2 * (s.bitPosition.toNat / 16) + 2) s with ⟨hsecond, _⟩ | ⟨_, e'⟩
    · omega
    · rw [e, Res.bind_ok, if_neg (by omega), e', Res.bind_raise]
      congr 1
      omega
  · rw [e, Res.bind_raise]

theorem readBits_tooLarge {s : State} {n : Nat} (h : 16 < n) :
    readBits n s = raise .bitCountTooLarge n s := if_pos h

theorem readBits_overflow {s : State} {n : Nat} (hpos : 0 < n) (hn : n ≤ 16)
    (h : 2 ^ 32 - 1 < s.bitPosition.toNat + n) : readBits n s = raise .bitPositionOverflow n s := by
  rw [readBits, if_neg (by omega), if_neg (by omega), if_pos h]

/-! ### The bits ahead of the cursor -/

@[simp] theorem length_streamFrom (s : State) (n : Nat) : (streamFrom s n).length = n := by
  rw [streamFrom, List.length_map, List.length_range]

theorem advance_zero (s : State) : advance 0 s = s := by
  simp [advance]

theorem advance_advance (m n : Nat) (s : State) : advance n (advance m s) = advance (m + n) s := by
  simp [advance, BitVec.ofNat_add, BitVec.add_assoc]

theorem toNat_advance_bitPosition {s : State} {n : Nat} (h : s.bitPosition.toNat + n ≤ 2 ^ 32 - 1) :
    (advance n s).bitPosition.toNat = s.bitPosition.toNat + n := by
  rw [advance_bitPosition, BitVec.toNat_add, BitVec.toNat_ofNat]
  omega

/-- The bits after the next `m` are the next bits once `m` are consumed. -/
theorem streamFrom_add {s : State} {m : Nat} (h : s.bitPosition.toNat + m ≤ 2 ^ 32 - 1) (n : Nat) :
    streamFrom s (m + n) = streamFrom s m ++ streamFrom (advance m s) n := by
  have hbit (k : Nat) : streamBit s (s.bitPosition.toNat + (m + k)) =
      streamBit (advance m s) ((advance m s).bitPosition.toNat + k) := by
    rw [toNat_advance_bitPosition h, Nat.add_assoc]
    rfl
  rw [streamFrom, List.range_add, List.map_append, List.map_map]
  exact congrArg _ (List.map_congr_left fun k _ => hbit k)

/-- The bits `c` are next in the stream, and can all be read. -/
structure State.Ahead (s : State) (c : List Bool) : Prop where
  canRead : c = [] ∨ readable s c.length
  bits : streamFrom s c.length = c

theorem ahead_streamFrom {s : State} {n : Nat} (h : n = 0 ∨ readable s n) : s.Ahead (streamFrom s n) where
  canRead := by
    rw [length_streamFrom]
    exact h.imp_left fun h => by rw [h]; rfl
  bits := by rw [length_streamFrom]

/-- Of the bits ahead, the first are ahead, and the others are once those are consumed. -/
theorem State.Ahead.of_append {s : State} {c d : List Bool} (h : s.Ahead (c ++ d)) :
    s.Ahead c ∧ (advance c.length s).Ahead d := by
  obtain ⟨hread, hbits⟩ := h
  rw [List.length_append] at hread hbits
  have hpos : s.bitPosition.toNat + c.length ≤ 2 ^ 32 - 1 := by
    rcases hread with hnil | hread
    · have hc : c = [] := (List.append_eq_nil_iff.mp hnil).1
      rw [hc]
      exact Nat.le_sub_one_of_lt s.bitPosition.isLt
    · omega
  rw [streamFrom_add hpos] at hbits
  obtain ⟨hc, hd⟩ := List.append_inj hbits (length_streamFrom s c.length)
  have hread' (hne : c ++ d ≠ []) : readable s (c.length + d.length) := hread.resolve_left hne
  refine ⟨⟨?_, hc⟩, ⟨?_, hd⟩⟩
  · refine or_iff_not_imp_left.mpr fun hne => ?_
    obtain ⟨h32, hlen⟩ := hread' (by simp [hne])
    exact ⟨hpos, by omega⟩
  · refine or_iff_not_imp_left.mpr fun hne => ?_
    obtain ⟨h32, hlen⟩ := hread' (by simp [hne])
    rw [readable, toNat_advance_bitPosition hpos, advance_bitBase, advance_srcLen]
    exact ⟨by omega, by rwa [Nat.add_assoc s.bitPosition.toNat]⟩

/-- When the bits of a value are ahead, `ReadBits` answers that value. -/
theorem State.Ahead.readBits_ok {s : State} {n v : Nat} (hn : n ≤ 16) (hv : v < 2 ^ n)
    (h : s.Ahead (bitsOf n v)) : ∃ x : Half, x.toNat = v ∧ readBits n s = .ok x (advance n s) := by
  obtain ⟨hread, hbits⟩ := h
  rw [length_bitsOf] at hread hbits
  rcases Nat.eq_zero_or_pos n with rfl | hpos
  · have : v = 0 := by omega
    exact ⟨0, this.symm, by rw [advance_zero]; rfl⟩
  · have hne : bitsOf n v ≠ [] := List.ne_nil_of_length_pos (by rwa [length_bitsOf])
    obtain ⟨x, hx, hlt, e⟩ := readBits_eq_streamFrom hpos hn (hread.resolve_left hne)
    exact ⟨x, bitsOf_inj hlt hv (e.trans hbits), hx⟩

end Sys2Proof.Machine

/-! ## The step at a code word

A fetch goes through the reads of its code; it consumes the bits of the reads that succeed and ends in the code word's
instruction or in the failure of a read (42_runlength.md R210, 60_exceptions.md R313, R314). -/

namespace Sys2Proof

/-! ### Codes partly read -/

/-- How many bits the next read of a code asks for, none when the code word is complete. -/
def CodeTree.firstRead : CodeTree → Option Nat
  | .instr _ => none
  | .field w _ => some w
  | .read n _ => some n

/-- The code that is left to read when the reads so far have consumed the bits given; none when these end inside a
read or go past the code word. -/
def CodeTree.after : CodeTree → List Bool → Option CodeTree
  | t, [] => some t
  | .read n k, b :: l =>
    match takeBits n (b :: l) with
    | some (v, rest) => (k v).after rest
    | none => none
  | .instr _, _ :: _ => none
  | .field _ _, _ :: _ => none

end Sys2Proof

namespace Sys2Proof.Machine

/-! ### Fetching a code word -/

/-- The reads that `nextRead` lists are those of the codes. -/
theorem after_of_nextRead {f : Format} {bh : BlockHeader} {l : List Bool} {n : Nat}
    (h : nextRead f bh l = some n) :
    ∃ t u, codeOfFormat bh f = some t ∧ t.after l = some u ∧ u.firstRead = some n := by
  unfold nextRead at h
  split at h
  case h_20 => cases h
  all_goals exact ⟨_, _, rfl, rfl, h⟩

/-- The fetch reads what the decoder decodes when its bits are ahead: by induction on the reads. -/
theorem fetchTree_of_decodeTree {bh : BlockHeader} {t : CodeTree} {pre c : List Bool} {i : Instr} {s : State}
    (ht : t.Writes bh pre) (h : decodeTree t c = .ok (i, [])) (hc : s.Ahead c) :
    fetchTree t s = .ok i (advance c.length s) := by
  induction t generalizing pre c s with
  | instr j =>
    cases h
    rw [fetchTree, List.length_nil, advance_zero]
  | field w mk =>
    rw [fetchTree]
    rcases decodeTree_field_ok h with ⟨hw, rfl, rfl⟩ | ⟨hw, v, hv, rfl, rfl⟩
    · rw [if_pos hw, List.length_nil, advance_zero]
    · rw [List.append_nil] at hc ⊢
      obtain ⟨x, hx, e⟩ := hc.readBits_ok hw hv
      rw [if_neg (by omega), e, Res.bind_ok, BitVec.eq_of_toNat_eq hx, length_bitsOf]
  | read n k ih =>
    obtain ⟨hn, hk⟩ := ht
    obtain ⟨v, c', hv, rfl, hrest⟩ := decodeTree_read_ok h
    obtain ⟨hfirst, hnext⟩ := hc.of_append
    obtain ⟨x, rfl, e⟩ := hfirst.readBits_ok (by omega) hv
    rw [length_bitsOf] at hnext
    rw [fetchTree, e, Res.bind_ok, ih _ (hk _ hv) hrest hnext, advance_advance, List.length_append, length_bitsOf]

/-- A fetch whose first reads consume the bits ahead goes on with the code that is left. -/
theorem fetchTree_after {bh : BlockHeader} {t u : CodeTree} {pre c : List Bool} {s : State}
    (ht : t.Writes bh pre) (h : t.after c = some u) (hc : s.Ahead c) :
    u.Writes bh (pre ++ c) ∧ fetchTree t s = fetchTree u (advance c.length s) := by
  induction t generalizing pre c s with
  | instr | field =>
    cases c with
    | nil =>
      cases h
      exact ⟨by rwa [List.append_nil], by rw [List.length_nil, advance_zero]⟩
    | cons => cases h
  | read n k ih =>
    cases c with
    | nil =>
      cases h
      exact ⟨by rwa [List.append_nil], by rw [List.length_nil, advance_zero]⟩
    | cons b l =>
      obtain ⟨hn, hk⟩ := ht
      rw [CodeTree.after] at h
      split at h
      · rename_i v rest htake
        obtain ⟨hv, hl⟩ := takeBits_some htake
        rw [hl] at hc ⊢
        obtain ⟨hfirst, hnext⟩ := hc.of_append
        obtain ⟨x, rfl, e⟩ := hfirst.readBits_ok (by omega) hv
        rw [length_bitsOf] at hnext
        obtain ⟨hu, hfetch⟩ := ih _ (hk _ hv) h hnext
        rw [List.append_assoc] at hu
        exact ⟨hu, by rw [fetchTree, e, Res.bind_ok, hfetch, advance_advance, List.length_append, length_bitsOf]⟩
      · cases h

/-- A fetch raises what its first read raises. -/
theorem fetchTree_raise {t : CodeTree} {n : Nat} {s : State} {e : Failure} {info : Nat}
    (ht : t.firstRead = some n) (hn : n ≤ 16) (h : readBits n s = raise e info s) :
    fetchTree t s = raise e info s := by
  cases t with
  | instr => cases ht
  | field w mk =>
    cases ht
    rw [fetchTree, if_neg (by omega), h, Res.bind_raise]
  | read m k =>
    cases ht
    rw [fetchTree, h, Res.bind_raise]

/-- A field too wide to be read is left to the meaning of its instruction (40_bitcursor.md R164). -/
theorem fetchTree_wide {bh : BlockHeader} {t : CodeTree} {pre : List Bool} {n : Nat} (ht : t.firstRead = some n)
    (hw : t.Writes bh pre) (hn : 16 < n) (s : State) :
    ∃ i, i.fieldWidth bh = some n ∧ fetchTree t s = .ok i s := by
  cases t with
  | instr => cases ht
  | field w mk =>
    cases ht
    obtain ⟨hwidth, _⟩ := hw 0
    exact ⟨mk 0, hwidth, if_pos hn⟩
  | read m k =>
    cases ht
    obtain ⟨hm, _⟩ := hw
    omega

/-! ### Where a code word is due -/

/-- The sequencer stands where a rule reads a code word of the format (30_encoding.md R146). -/
def DueAt (s : State) : Format → Prop
  | .lr => s.seq = .litCount ∨ s.seq = .matchCount
  | .mc => s.seq = .matchItem ∧ s.lenRead = none
  | .off => s.seq = .matchItem ∧ ∃ len, s.lenRead = some len
  | .huf => s.seq = .litSymbol ∧ (treeAt s s.node.toNat).isLeaf = false
  | .tf => s.seq = .buildTree ∧ 0 < s.buildIndex.toNat ∧ s.buildIndex.toNat ≤ s.treeSize.toNat
  | .block => s.seq = .blockHeader
  | .container => s.seq = .validate
  | .hostreg => False

theorem dueAt_of_formatDue {s : State} {f : Format} (h : formatDue s = some f) : DueAt s f := by
  unfold formatDue at h
  split at h
  case h_1 hseq | h_3 hseq => exact Option.some.inj h ▸ hseq
  case h_4 hseq => exact Option.some.inj h ▸ .inl hseq
  case h_5 hseq => exact Option.some.inj h ▸ .inr hseq
  case h_2 hseq =>
    split at h
    next hindex => exact Option.some.inj h ▸ ⟨hseq, hindex⟩
    next => cases h
  case h_6 hseq =>
    split at h
    next => cases h
    next hnode => exact Option.some.inj h ▸ ⟨hseq, Bool.eq_false_of_not_eq_true hnode⟩
  case h_7 hseq =>
    split at h
    next hlen => exact Option.some.inj h ▸ ⟨hseq, Option.isNone_iff_eq_none.mp hlen⟩
    next hlen => exact Option.some.inj h ▸ ⟨hseq, Option.ne_none_iff_exists'.mp fun e => hlen (by rw [e]; rfl)⟩
  all_goals cases h

theorem fetchEngine_of_dueAt {s : State} {f : Format} {t : CodeTree} (h : DueAt s f)
    (ht : codeOfFormat s.bh f = some t) : fetchEngine s = (fetchTree t s).toFetched := by
  cases f with
  | lr =>
    obtain rfl := Option.some.inj ht
    rcases h with hseq | hseq <;> simp only [fetchEngine, hseq]
  | mc =>
    obtain rfl := Option.some.inj ht
    obtain ⟨hseq, hlen⟩ := h
    simp only [fetchEngine, hseq, hlen]
  | off =>
    obtain rfl := Option.some.inj ht
    obtain ⟨hseq, len, hlen⟩ := h
    simp only [fetchEngine, hseq, hlen]
  | huf =>
    obtain rfl := Option.some.inj ht
    obtain ⟨hseq, hnode⟩ := h
    simp [fetchEngine, hseq, hnode]
  | tf =>
    obtain rfl := Option.some.inj ht
    obtain ⟨hseq, hpos, hle⟩ := h
    have hne : s.buildIndex ≠ 0 := fun e => by simp [e] at hpos
    simp only [fetchEngine, hseq, if_neg hne, if_pos hle]
  | block | container | hostreg => nomatch ht

theorem dueAt_advance (n : Nat) (s : State) (f : Format) : DueAt (advance n s) f ↔ DueAt s f := by
  cases f <;> rfl

theorem step_of_dueAt {s : State} {f : Format} {t : CodeTree} (hp : s.pending = []) (h : DueAt s f)
    (ht : codeOfFormat s.bh f = some t) : step s = (fetchTree t s).toFetched.run := by
  rw [step_eq_run_fetch, fetch_of_pending_nil hp, fetchEngine_of_dueAt h ht]

/-! ### A field too wide -/

theorem withField_wide {w : Byte} (hw : 16 < w.toNat) (v : Half) (s : State) (use : Word → Result) :
    withField w v s use = .next (takeFailure .bitCountTooLarge w.toNat s) := if_pos hw

theorem inSequence_of {here : Bool} (h : here = true) (m : String) (r : Result) : inSequence m here r = r :=
  if_pos h

/-- A code word with a field wider than 16 bits, run where it is due, raises BitCountTooLarge (60_exceptions.md
R309). -/
theorem exec_wide_field {s : State} {i : Instr} {w : Nat} (hdue : DueAt s i.format)
    (hwidth : i.fieldWidth s.bh = some w) (hw : 16 < w) :
    exec i s = .next (takeFailure .bitCountTooLarge w s) := by
  cases i with
  | lrExt1 v | lrExt2 v | lrExt3 v =>
    obtain rfl := Option.some.inj hwidth
    have hseq : countSeq s = true := decide_eq_true hdue
    exact (inSequence_of hseq _ _).trans (withField_wide hw v s _)
  | mcExt1 v | mcExt2 v | mcExt3 v =>
    obtain rfl := Option.some.inj hwidth
    have hseq : lengthSeq s = true := decide_eq_true hdue
    exact (inSequence_of hseq _ _).trans (withField_wide hw v s _)
  | of0 v | of1 v | of2 v | of3 v =>
    obtain rfl := Option.some.inj hwidth
    obtain ⟨hseq, len, hlen⟩ := hdue
    simp only [exec, execOf0, execOf1, execOf2, execOf3, execOffset, hlen]
    exact (inSequence_of (decide_eq_true hseq) _ _).trans (withField_wide hw v s _)
  | _ => nomatch hwidth

/-! ### The step at a code word -/

section
variable {s : State} {f : Format}

/-- A code word ahead is consumed and run. -/
theorem step_eq_exec_of_decode {i : Instr} {c : List Bool} (hp : s.pending = []) (hdue : DueAt s f)
    (h : decode f s.bh (.bits c) = .ok (i, [])) (hc : s.Ahead c) : step s = exec i (advance c.length s) := by
  obtain ⟨t, ht, h⟩ := codeOfFormat_of_decode_bits h
  rw [step_of_dueAt hp hdue ht, fetchTree_of_decodeTree (CodeTree.writes_codeOfFormat ht) h hc,
    Res.toFetched_ok, Fetched.run]

/-- A read that fails raises with the bits of the reads before it consumed (42_runlength.md R210). -/
theorem step_raises_failing_read {c : List Bool} {n info : Nat} {e : Failure}
    (hp : s.pending = []) (hdue : DueAt s f) (hnext : nextRead f s.bh c = some n) (hc : s.Ahead c) (hn : n ≤ 16)
    (h : readBits n (advance c.length s) = raise e info (advance c.length s)) :
    step s = .next (takeFailure e info (advance c.length s)) := by
  obtain ⟨t, u, ht, hafter, hfirst⟩ := after_of_nextRead hnext
  obtain ⟨_, hfetch⟩ := fetchTree_after (CodeTree.writes_codeOfFormat ht) hafter hc
  rw [step_of_dueAt hp hdue ht, hfetch, fetchTree_raise hfirst hn h, Res.toFetched_raise, Fetched.run]

/-- A field too wide raises in its place, the bits before it consumed (60_exceptions.md R309). -/
theorem step_raises_wide_field {c : List Bool} {n : Nat} (hp : s.pending = []) (hdue : DueAt s f)
    (hnext : nextRead f s.bh c = some n) (hc : s.Ahead c) (hn : 16 < n) :
    step s = .next (takeFailure .bitCountTooLarge n (advance c.length s)) := by
  obtain ⟨t, u, ht, hafter, hfirst⟩ := after_of_nextRead hnext
  obtain ⟨hwrites, hfetch⟩ := fetchTree_after (CodeTree.writes_codeOfFormat ht) hafter hc
  obtain ⟨i, hwidth, hi⟩ := fetchTree_wide hfirst hwrites hn (advance c.length s)
  have hformat : i.format = f := fetchTree_all (CodeTree.all_codeOfFormat ht) (hfetch.trans hi)
  have hdue' : DueAt (advance c.length s) i.format := by rwa [hformat, dueAt_advance]
  rw [step_of_dueAt hp hdue ht, hfetch, hi, Res.toFetched_ok, Fetched.run, exec_wide_field hdue' hwidth hn]

end

/-- Settles O2: a code word ahead is run; of the reads that fail, a wide field is raised by its meaning and the others
by `ReadBits`. -/
theorem stepRunsCodeWordOfStream : Obligations.StepRunsCodeWordOfStream := by
  intro s f hp hdue
  have hdue := dueAt_of_formatDue hdue
  constructor
  · intro n i _ hread h
    have hstep := step_eq_exec_of_decode hp hdue h (ahead_streamFrom (.inr hread))
    rwa [length_streamFrom] at hstep
  · intro m n hread hnext
    have hc := ahead_streamFrom hread
    have hpos : s.bitPosition.toNat + m ≤ 2 ^ 32 - 1 := by
      rcases hread with rfl | ⟨h, _⟩
      · exact Nat.le_sub_one_of_lt s.bitPosition.isLt
      · exact h
    have hadvance := toNat_advance_bitPosition hpos
    have raises {e info} (hn : n ≤ 16) (h : readBits n (advance m s) = raise e info (advance m s)) :
        step s = .next (takeFailure e info (advance m s)) := by
      rw [← length_streamFrom s m] at h ⊢
      exact step_raises_failing_read hp hdue hnext hc hn h
    refine ⟨fun hn => ?_, fun hpos hn h => ?_, fun hpos hn h hlen => ?_⟩
    · have hstep := step_raises_wide_field hp hdue hnext hc hn
      rwa [length_streamFrom] at hstep
    · exact raises hn (readBits_overflow hpos hn (by rwa [hadvance]))
    · rw [← hadvance] at h hlen ⊢
      exact raises hn (readBits_overrun hpos hn h hlen)

end Sys2Proof.Machine

/-! ## The block header

The step at a block's header, and the tables that BLOCK.COMPRESSED loads (43_block.md R231). -/

namespace Sys2Proof.Machine

/-! ### The two lengths -/

/-- The fetch at a block header reads the two lengths, writes them and chooses the kind (43_block.md R231 step (1)). -/
theorem fetchBlock_ok {s : State} (h : s.blockStart.toNat + 3 < s.srcLen.toNat) :
    let u := le16 (s.src.read s.blockStart.toNat) (s.src.read (s.blockStart.toNat + 1))
    let c := le16 (s.src.read (s.blockStart.toNat + 2)) (s.src.read (s.blockStart.toNat + 3))
    fetchBlock s = .ok (if c = 0 then .blockStored u else .blockCompressed u c) (setLengths u c s) := by
  intro u c
  have hsecond (bh : BlockHeader) :
      srcRead16 (s.blockStart.toNat + 2) { s with bh := bh } = .ok c { s with bh := bh } :=
    srcRead16_ok (show _ < s.srcLen.toNat by omega)
  rw [fetchBlock, srcRead16_ok (by omega), Res.bind_ok, hsecond, Res.bind_ok, decodeBlockWord_append]
  rfl

/-- Settles O3, by the fetch at a block header. -/
theorem stepRunsBlockKind : Obligations.StepRunsBlockKind := by
  intro s hp hseq h u c
  have hfetch : fetchEngine s = (fetchBlock s).toFetched := by simp only [fetchEngine, hseq]
  rw [step_eq_run_fetch, fetch_of_pending_nil hp, hfetch, fetchBlock_ok h, Res.toFetched_ok, Fetched.run]
  rfl

/-! ### The five tables

With all 24 header bytes below SRC_LEN, each load stores the bytes at its offset (30_encoding.md R131). -/

theorem loadMatchBase_ok {s : State} (h : s.blockStart.toNat + 23 < s.srcLen.toNat) (j : Fin 4) :
    loadMatchBase j s = .ok () { s with
      bh := { s.bh with
        matchLengthBaseTable := s.bh.matchLengthBaseTable.set j (le16 (s.src.read (s.blockStart.toNat + 4 + 2 * j))
        (s.src.read (s.blockStart.toNat + 4 + 2 * j + 1))) } } := by
  rw [loadMatchBase, srcRead16_ok (by omega), Res.bind_ok]

theorem loadOffsetWidth_ok {s : State} (h : s.blockStart.toNat + 23 < s.srcLen.toNat) (j : Fin 4) :
    loadOffsetWidth j s = .ok () { s with
      bh := { s.bh with
        offsetCodeBitLengths := s.bh.offsetCodeBitLengths.set j (s.src.read (s.blockStart.toNat + 12 + j)) } } := by
  rw [loadOffsetWidth, srcRead_ok (by omega), Res.bind_ok]

theorem loadMatchWidth_ok {s : State} (h : s.blockStart.toNat + 23 < s.srcLen.toNat) (j : Fin 3) :
    loadMatchWidth j s = .ok () { s with
      bh := { s.bh with
        matchLengthCodeBitLengths := s.bh.matchLengthCodeBitLengths.set j
          (s.src.read (s.blockStart.toNat + 16 + j)) } } := by
  rw [loadMatchWidth, srcRead_ok (by omega), Res.bind_ok]

theorem loadRunWidth_ok {s : State} (h : s.blockStart.toNat + 23 < s.srcLen.toNat) (j : Fin 3) :
    loadRunWidth j s = .ok () { s with
      bh := { s.bh with
        runLengthCodeBitLengths := s.bh.runLengthCodeBitLengths.set j
          (s.src.read (s.blockStart.toNat + 19 + j)) } } := by
  rw [loadRunWidth, srcRead_ok (by omega), Res.bind_ok]

theorem loadRunBase_ok {s : State} (h : s.blockStart.toNat + 23 < s.srcLen.toNat) (j : Fin 2) :
    loadRunBase j s = .ok () { s with
      bh := { s.bh with
        runLengthBaseTable := s.bh.runLengthBaseTable.set j (s.src.read (s.blockStart.toNat + 22 + j)) } } := by
  rw [loadRunBase, srcRead_ok (by omega), Res.bind_ok]

/-! Storing every entry of a table makes it the list of the values stored. -/

theorem vector_set_two {α : Type} (v : Vector α 2) (a b : α) : (v.set 0 a).set 1 b = #v[a, b] := by
  ext i hi
  interval_cases i <;> simp

theorem vector_set_three {α : Type} (v : Vector α 3) (a b c : α) : ((v.set 0 a).set 1 b).set 2 c = #v[a, b, c] := by
  ext i hi
  interval_cases i <;> simp

theorem vector_set_four {α : Type} (v : Vector α 4) (a b c d : α) :
    (((v.set 0 a).set 1 b).set 2 c).set 3 d = #v[a, b, c, d] := by
  ext i hi
  interval_cases i <;> simp

/-- `bh` with its five tables as the header bytes hold them (30_encoding.md R131). -/
def tablesFrom (byte : Nat → Byte) (bh : BlockHeader) : BlockHeader :=
  { bh with
    matchLengthBaseTable := #v[le16 (byte 4) (byte 5), le16 (byte 6) (byte 7), le16 (byte 8) (byte 9),
      le16 (byte 10) (byte 11)],
    offsetCodeBitLengths := #v[byte 12, byte 13, byte 14, byte 15],
    matchLengthCodeBitLengths := #v[byte 16, byte 17, byte 18],
    runLengthCodeBitLengths := #v[byte 19, byte 20, byte 21],
    runLengthBaseTable := #v[byte 22, byte 23] }

/-- The loads in order: each leaves the bytes and the bounds of the next, and fills one entry. -/
theorem loadTables_ok {s : State} (h : s.blockStart.toNat + 23 < s.srcLen.toNat) :
    loadTables s = .ok () { s with bh := tablesFrom (fun k => s.src.read (s.blockStart.toNat + k)) s.bh } := by
  simp [loadTables, loadMatchBase_ok, loadOffsetWidth_ok, loadMatchWidth_ok, loadRunWidth_ok, loadRunBase_ok, h,
    vector_set_two, vector_set_three, vector_set_four, tablesFrom, Nat.add_assoc]

/-- Settles O24, by the loads of the five tables. -/
theorem compressedBlockLoadsHeader : Obligations.CompressedBlockLoadsHeader := by
  intro s u c hseq h byte
  have htables := loadTables_ok (s := setLengths u c s) h
  have hexec : exec (.blockCompressed u c) s =
      ((loadTables (setLengths u c s)).bind fun _ s => .ok () (enterBitstream s)).toResult :=
    inSequence_of (decide_eq_true hseq) _ _
  rw [hexec, htables]
  rfl

end Sys2Proof.Machine

/-! ## ReadBits

The obligations on `ReadBits` (40_bitcursor.md R162 to R167), by the lemmas of the bitstream above. -/

namespace Sys2Proof.Machine

/-- Settles O10, by the reads of one word and of two. -/
theorem readBitsReturnsStreamBits : Obligations.ReadBitsReturnsStreamBits :=
  fun _ _ hpos hn h => readBits_eq_streamFrom hpos hn h

theorem streamBit_advance (m : Nat) (s : State) (j : Nat) : streamBit (advance m s) j = streamBit s j := rfl

/-- Of readable bits the first can be read, and the others once those are consumed. -/
theorem readable_of_add {s : State} {m n : Nat} (h : readable s (m + n)) :
    readable s m ∧ readable (advance m s) n := by
  obtain ⟨hpos32, hlen⟩ := h
  have hmpos : s.bitPosition.toNat + m ≤ 2 ^ 32 - 1 := by omega
  refine ⟨⟨hmpos, by omega⟩, ?_⟩
  rw [readable, toNat_advance_bitPosition hmpos, advance_bitBase, advance_srcLen, Nat.add_assoc s.bitPosition.toNat]
  exact ⟨hpos32, hlen⟩

/-- Settles O11: bit `i` of either side is the same stream bit, read second when `i < n2` and first otherwise. -/
theorem splitReadsAgree : Obligations.SplitReadsAgree := by
  intro s n1 n2 h1 h2 hn h
  obtain ⟨hread1, hread2⟩ := readable_of_add h
  obtain ⟨a, ha, hbita⟩ := readBits_of_readable h1 (by omega) hread1
  obtain ⟨b, hb, hbitb⟩ := readBits_of_readable h2 (by omega) hread2
  obtain ⟨v, hv, hbitv⟩ := readBits_of_readable (by omega) hn h
  rw [advance_advance] at hb
  refine ⟨a, b, v, advance n1 s, advance (n1 + n2) s, ha, hb, hv, BitVec.eq_of_getLsbD_eq fun i hi => ?_⟩
  rw [BitVec.getLsbD_or, BitVec.getLsbD_shiftLeft, hbitv, hbita, hbitb, streamBit_advance,
    toNat_advance_bitPosition hread1.1]
  by_cases hlow : i < n2
  · have hbit : s.bitPosition.toNat + n1 + (n2 - 1 - i) = s.bitPosition.toNat + (n1 + n2 - 1 - i) := by omega
    have hin : i < n1 + n2 := by omega
    simp [hlow, hin, hbit]
  · have hbit : n1 - 1 - (i - n2) = n1 + n2 - 1 - i := by omega
    have hin : i - n2 < n1 ↔ i < n1 + n2 := by omega
    simp [hlow, hi, hin, hbit]

/-- Settles O13, by the first word's read and the second's. -/
theorem readBitsOverrunsAtLowestOffset : Obligations.ReadBitsOverrunsAtLowestOffset :=
  fun _ _ hpos hn hpos32 hlen => readBits_overrun hpos hn hpos32 hlen

/-- Settles O12, a clause per check. -/
theorem readBitsChecksCount : Obligations.ReadBitsChecksCount := by
  intro s n
  refine ⟨readBits_tooLarge, ?_, readBits_overflow⟩
  rintro rfl
  rfl

end Sys2Proof.Machine

/-! ## The Huffman tree

The tree is built node by node, each entry whole as it is written, and is then only read: so it stays whole through
the blocks, and the traversal's children are the derived ones (41_huffman.md R180 to R193). -/

namespace Sys2Proof.Machine

/-! ### Nodes and their children -/

/-- A derived left child is an index of 10 bits, so it does not wrap (41_huffman.md R186). -/
@[simp] theorem toNat_leftChild (v : Byte) : (leftChild v).toNat = 2 * v.toNat + 1 := by
  rw [leftChild, BitVec.toNat_ofNat]
  omega

/-- Nor does a derived right child. -/
@[simp] theorem toNat_rightChild (v : Byte) : (rightChild v).toNat = 2 * v.toNat + 2 := by
  rw [rightChild, BitVec.toNat_ofNat]
  omega

theorem nodeOk_rootNode : nodeOk rootNode = true := by decide

theorem nodeOk_storedNode (leaf : Bool) (v : Byte) : nodeOk (storedNode leaf v) = true := by
  cases leaf <;> simp [storedNode, nodeOk]

/-- A whole internal node has the children its value derives. -/
theorem children_of_nodeOk {e : Node} (hinternal : e.isLeaf = false) (h : nodeOk e = true) :
    e.left = some (leftChild e.value) ∧ e.right = some (rightChild e.value) := by
  simpa [nodeOk, hinternal] using h

section
variable {s t : State}

/-! ### The tree over steps

What `InvTree` asks of a state, by its sequencer state. -/

/-- The tree has its size and its root, and its entries below `k` are whole. -/
def TreeBelow (s : State) (k : Nat) : Prop :=
  s.treeSize.toNat = 2 * s.ch.huffmanTreeByteLength.toNat ∧ treeAt s 0 = rootNode ∧
    ∀ i, i < k → nodeOk (treeAt s i) = true

theorem invTree_elsewhere (hbuild : t.seq ≠ .buildTree) (hblock : inBlock t.seq = false) : InvTree t := by
  refine ⟨fun h => absurd h hbuild, fun h => absurd (hblock.symm.trans h) nofun, fun hseq => ?_⟩
  rw [hseq] at hblock
  cases hblock

theorem invTree_buildTree (hseq : t.seq = .buildTree)
    (h : 0 < t.buildIndex.toNat →
      t.buildIndex.toNat ≤ t.treeSize.toNat + 1 ∧ TreeBelow t t.buildIndex.toNat) : InvTree t := by
  refine ⟨fun _ hpos => ?_, fun hblock => ?_, fun hsymbol => ?_⟩
  · obtain ⟨hle, hsize, hroot, hnodes⟩ := h hpos
    exact ⟨hsize, hle, hroot, hnodes⟩
  · rw [hseq] at hblock
    cases hblock
  · cases hseq.symm.trans hsymbol

theorem invTree_block (hblock : inBlock t.seq = true) (htree : TreeBelow t (t.treeSize.toNat + 1))
    (hnode : t.seq = .litSymbol → t.node.toNat ≤ t.treeSize.toNat) : InvTree t := by
  refine ⟨fun hseq => ?_, fun _ => htree, hnode⟩
  rw [hseq] at hblock
  cases hblock

/-- After a block, or after construction, the next block's tree is whole, or the container is at its end. -/
theorem invTree_at_block {n k : Half} (hseq : t.seq = if n = k then .finish else .blockHeader)
    (htree : TreeBelow t (t.treeSize.toNat + 1)) : InvTree t := by
  split at hseq
  · exact invTree_elsewhere (by simp [hseq]) (by rw [hseq]; rfl)
  · exact invTree_block (by rw [hseq]; rfl) htree (by simp [hseq])

/-! What it gives back while the tree is built, and at a block. -/

theorem InvTree.at_buildTree (hs : InvTree s) (hseq : s.seq = .buildTree) (hpos : 0 < s.buildIndex.toNat) :
    s.buildIndex.toNat ≤ s.treeSize.toNat + 1 ∧ TreeBelow s s.buildIndex.toNat := by
  obtain ⟨hbuild, _, _⟩ := hs
  obtain ⟨hsize, hle, hroot, hnodes⟩ := hbuild hseq hpos
  exact ⟨hle, hsize, hroot, hnodes⟩

theorem InvTree.at_block (hs : InvTree s) (hblock : inBlock s.seq = true) :
    TreeBelow s (s.treeSize.toNat + 1) := by
  obtain ⟨_, hs, _⟩ := hs
  exact hs hblock

/-! Each move that writes the tree or begins to read it. -/

/-- The tree's size fits its 9 bits (10_state.md R51). -/
theorem toNat_beginTree_treeSize (s : State) :
    (beginTree s).treeSize.toNat = 2 * s.ch.huffmanTreeByteLength.toNat := by
  rw [beginTree_treeSize, BitVec.toNat_ofNat]
  omega

/-- Construction begins with the root alone, which is whole (41_huffman.md R181). -/
theorem invTree_beginTree (hseq : s.seq = .buildTree) : InvTree (beginTree s) := by
  have hroot : treeAt (beginTree s) 0 = rootNode := treeAt_setTree 0 0 rootNode s
  refine invTree_buildTree hseq fun _ => ⟨Nat.le_add_left 1 _, toNat_beginTree_treeSize s, hroot, fun i hi => ?_⟩
  obtain rfl : i = 0 := Nat.lt_one_iff.mp hi
  rw [hroot, nodeOk_rootNode]

/-- A stored node is written whole, above the root and the nodes before it. -/
theorem InvTree.buildNode (hs : InvTree s) (leaf : Bool) (v : Byte) (hseq : s.seq = .buildTree)
    (hpos : 0 < s.buildIndex.toNat) (hle : s.buildIndex.toNat ≤ s.treeSize.toNat) :
    InvTree { setTree s.buildIndex.toNat (storedNode leaf v) (advance 1 s) with
      buildIndex := s.buildIndex + 1 } := by
  obtain ⟨_, hsize, hroot, hnodes⟩ := hs.at_buildTree hseq hpos
  have hnext : (s.buildIndex + 1).toNat = s.buildIndex.toNat + 1 := by
    have hbound : s.treeSize.toNat < 2 ^ 9 := s.treeSize.isLt
    bv_omega
  refine invTree_buildTree hseq fun _ => ⟨?_, hsize, ?_, fun i hi => ?_⟩
  · show (s.buildIndex + 1).toNat ≤ s.treeSize.toNat + 1
    omega
  · refine (treeAt_setTree _ 0 _ (advance 1 s)).trans ?_
    rw [if_neg (by omega)]
    exact hroot
  · replace hi : i < s.buildIndex.toNat + 1 := hnext ▸ hi
    show nodeOk (treeAt (setTree s.buildIndex.toNat (storedNode leaf v) (advance 1 s)) i) = true
    rw [treeAt_setTree]
    split
    · exact nodeOk_storedNode leaf v
    · exact hnodes i (by omega)

/-- When construction ends every entry of the tree is built. -/
theorem InvTree.endTree (hs : InvTree s) (hseq : s.seq = .buildTree)
    (hlt : s.treeSize.toNat < s.buildIndex.toNat) : InvTree (endTree s) := by
  obtain ⟨hle, htree⟩ := hs.at_buildTree hseq (by omega)
  have hindex : s.buildIndex.toNat = s.treeSize.toNat + 1 := by omega
  rw [hindex] at htree
  exact invTree_at_block (endTree_seq s) htree

/-- A run count ends the block, begins a match, or begins a literal's traversal at the root. -/
theorem InvTree.loadRunCount (hs : InvTree s) (r p : Word) (hseq : s.seq = .litCount ∨ s.seq = .matchCount) :
    InvTree (loadRunCount r { s with bitPosition := p }) := by
  have htree := hs.at_block (by rcases hseq with h | h <;> rw [h] <;> rfl)
  rcases loadRunCount_cases r { s with bitPosition := p } with ⟨_, e⟩ | ⟨_, _, e⟩ | ⟨_, _, e⟩ <;> rw [e]
  · exact invTree_at_block (endCompressedBlock_seq _) htree
  · exact invTree_block rfl htree fun _ => Nat.zero_le _
  · exact invTree_block rfl htree nofun

theorem InvTree.engineMove (hs : InvTree s) (h : EngineMove s t) : InvTree t := by
  cases h with
  | rest => exact hs
  | fail | finish => exact invTree_elsewhere nofun rfl
  | acceptContainer => exact invTree_buildTree rfl nofun
  | beginTree hseq => exact invTree_beginTree hseq
  | buildNode leaf v hseq hpos hle => exact hs.buildNode leaf v hseq hpos hle
  | endTree hseq hlt => exact hs.endTree hseq hlt
  | beginStored _ hseq | beginCompressed _ hseq | matchDistance _ _ _ hseq =>
    exact invTree_block rfl (hs.at_block (by rw [hseq]; rfl)) nofun
  | storedByte _ hseq | matchLength _ _ hseq | copyByte _ hseq =>
    have hblock : inBlock s.seq = true := by rw [hseq]; rfl
    exact invTree_block hblock (hs.at_block hblock) fun h => nomatch hseq.symm.trans h
  | endStored hseq => exact invTree_at_block (endStoredBlock_seq s) (hs.at_block (by rw [hseq]; rfl))
  | runCount r p hseq => exact hs.loadRunCount r p hseq
  | descend n p hseq _ hn =>
    have hblock : inBlock s.seq = true := by rw [hseq]; rfl
    exact invTree_block hblock (hs.at_block hblock) fun _ => hn
  | literal _ hseq =>
    refine invTree_block ?_ (hs.at_block (by rw [hseq]; rfl)) fun _ => Nat.zero_le _
    simp only
    split <;> rfl
  | endMatch hseq =>
    refine invTree_block ?_ (hs.at_block (by rw [hseq]; rfl)) ?_ <;> rw [endMatch_seq] <;> split
    · rfl
    · rfl
    · exact nofun
    · exact nofun

theorem InvTree.hostMove (hs : InvTree s) (h : HostMove s t) : InvTree t := by
  cases h with
  | start | reset => exact invTree_elsewhere nofun rfl
  | write | answer => exact hs

/-! ### The block index over steps -/

/-- Where a block follows, the framing's count had not run out. -/
theorem ne_of_inBlock {n k : Half} (h : inBlock (if n = k then .finish else .blockHeader) = true) : n ≠ k := by
  rintro rfl
  rw [if_pos rfl] at h
  cases h

/-- The next block's index is still below `blockCount`, or the container is at its end (44_container.md R277). -/
theorem invBlocks_nextBlock (h : s.blockIndex.toNat < s.ch.blockCount.toNat) : InvBlocks (nextBlock s) := by
  intro hblock
  have hne := ne_of_inBlock hblock
  show (s.blockIndex + 1).toNat < s.ch.blockCount.toNat
  bv_omega

theorem invBlocks_endTree (s : State) : InvBlocks (endTree s) := by
  intro hblock
  have hne := ne_of_inBlock hblock
  show (0 : Half).toNat < s.ch.blockCount.toNat
  bv_omega

theorem InvBlocks.loadRunCount (hs : InvBlocks s) (r p : Word)
    (hseq : s.seq = .litCount ∨ s.seq = .matchCount) :
    InvBlocks (loadRunCount r { s with bitPosition := p }) := by
  have hlt := hs (by rcases hseq with h | h <;> rw [h] <;> rfl)
  rcases loadRunCount_cases r { s with bitPosition := p } with ⟨_, e⟩ | ⟨_, _, e⟩ | ⟨_, _, e⟩ <;> rw [e]
  · exact invBlocks_nextBlock hlt
  · exact fun _ => hlt
  · exact fun _ => hlt

theorem InvBlocks.engineMove (hs : InvBlocks s) (h : EngineMove s t) : InvBlocks t := by
  cases h with
  | rest => exact hs
  | fail | finish | acceptContainer => exact nofun
  | beginTree hseq | buildNode _ _ hseq =>
    intro hblock
    replace hblock : inBlock s.seq = true := hblock
    rw [hseq] at hblock
    cases hblock
  | endTree => exact invBlocks_endTree s
  | endStored hseq => exact invBlocks_nextBlock (hs (by rw [hseq]; rfl))
  | runCount r p hseq => exact hs.loadRunCount r p hseq
  | beginStored _ hseq | beginCompressed _ hseq | storedByte _ hseq | descend _ _ hseq | literal _ hseq
  | matchLength _ _ hseq | matchDistance _ _ _ hseq | copyByte _ hseq | endMatch hseq =>
    exact fun _ => hs (by rw [hseq]; rfl)

theorem InvBlocks.hostMove (hs : InvBlocks s) (h : HostMove s t) : InvBlocks t := by
  cases h with
  | start | reset => exact nofun
  | write | answer => exact hs

end

/-- Settles O54, over the moves of the engine and of the host. -/
theorem stepKeepsTreeAndBlocks : Obligations.StepKeepsTreeAndBlocks := fun _ _ htree hblocks h =>
  ⟨step_keeps (fun _ _ hs => hs) (fun _ _ h hs => InvTree.engineMove hs h)
      (fun _ _ h hs => InvTree.hostMove hs h) htree h,
    step_keeps (fun _ _ hs => hs) (fun _ _ h hs => InvBlocks.engineMove hs h)
      (fun _ _ h hs => InvBlocks.hostMove hs h) hblocks h⟩

/-! ### Building a node -/

section
variable {s : State}

theorem setTree_eq (i : Nat) (n : Node) (s : State) :
    setTree i n s = { s with tree := s.tree.setIfInBounds i n } := by
  rw [← setTree_tree]
  rfl

theorem exec_flagBit (hdue : DueAt s .tf) (flag : Bool) :
    exec (if flag then .tf1 else .tf0) s = (buildNode flag s).toResult := by
  have hnode : nodeSeq s = true := decide_eq_true hdue
  cases flag <;> exact inSequence_of hnode _ _

/-- A tree flag bit writes the entry of its node's byte, a leaf or not by `Leaf(f, v)` (41_huffman.md R182). -/
theorem exec_flagBit_builds (hdue : DueAt s .tf) (hbyte : 15 + s.buildIndex.toNat < s.srcLen.toNat)
    (flag leaf : Bool)
    (hleaf : leafBit s.leafRule s.ch.huffmanTreeByteLength flag (s.src.read (15 + s.buildIndex.toNat)) = leaf) :
    exec (if flag then .tf1 else .tf0) s = .next { s with
      tree := s.tree.setIfInBounds s.buildIndex.toNat (storedNode leaf (s.src.read (15 + s.buildIndex.toNat))),
      buildIndex := s.buildIndex + 1 } := by
  rw [exec_flagBit hdue, buildNode, srcRead_ok hbyte, Res.bind_ok]
  simp only [hleaf, setTree_eq]
  rfl

/-- A tree flag bit whose node's byte is past the source raises SourceOverrun (60_exceptions.md R305). -/
theorem exec_flagBit_overrun (hdue : DueAt s .tf) (hbyte : s.srcLen.toNat ≤ 15 + s.buildIndex.toNat)
    (flag : Bool) :
    exec (if flag then .tf1 else .tf0) s = .next (takeFailure .sourceOverrun (15 + s.buildIndex.toNat) s) := by
  rw [exec_flagBit hdue, buildNode, srcRead_overrun hbyte]
  rfl

end

/-- Settles O21: `Leaf(f, v)` of each rule and flag. -/
theorem flagBitBuildsNode : Obligations.FlagBitBuildsNode := by
  intro s hdue hbyte v outside built
  have hdue := dueAt_of_formatDue hdue
  have flagClear (leaf : Bool) (h : leafBit s.leafRule s.ch.huffmanTreeByteLength false v = leaf) :
      exec .tf0 s = .next (built leaf) := exec_flagBit_builds hdue hbyte false leaf h
  have flagSet (leaf : Bool) (h : leafBit s.leafRule s.ch.huffmanTreeByteLength true v = leaf) :
      exec .tf1 s = .next (built leaf) := exec_flagBit_builds hdue hbyte true leaf h
  refine ⟨fun hrule => ?_, fun hrule => ?_, fun hrule => ?_, fun hrule => ?_⟩ <;>
    exact ⟨flagClear _ (by rw [hrule]; rfl), flagSet _ (by rw [hrule]; rfl)⟩

/-- Settles O22: both flag bits take the failure entry of the node's read. -/
theorem nodeByteOverrunRaises : Obligations.NodeByteOverrunRaises := by
  intro s hdue hbyte
  have hexec := exec_flagBit_overrun (dueAt_of_formatDue hdue) hbyte
  exact ⟨_, hexec false, hexec true, ⟨rfl, rfl, rfl, rfl, rfl, rfl⟩, rfl, rfl, rfl, rfl⟩

/-! ### The traversal -/

section
variable {s : State}

theorem moveTo_within {n : TreeIndex} (h : n.toNat ≤ s.treeSize.toNat) :
    moveTo (some n) s = .next { s with node := n } := if_neg (Nat.not_lt.mpr h)

theorem moveTo_past {n : TreeIndex} (h : s.treeSize.toNat < n.toNat) :
    moveTo (some n) s = .next (takeFailure .treeIndexOutOfRange n.toNat s) := if_pos h

/-- At a whole internal node the traversal bits move to the children its value derives (41_huffman.md R191,
R192). -/
theorem exec_huf_at_internal (hseq : s.seq = .litSymbol) (hinternal : (treeAt s s.node.toNat).isLeaf = false)
    (hok : nodeOk (treeAt s s.node.toNat) = true) :
    exec .huf0 s = moveTo (some (leftChild (treeAt s s.node.toNat).value)) s ∧
      exec .huf1 s = moveTo (some (rightChild (treeAt s s.node.toNat).value)) s := by
  have hwalk : walkSeq s = true := by simp [walkSeq, hseq, hinternal]
  obtain ⟨hleft, hright⟩ := children_of_nodeOk hinternal hok
  rw [← hleft, ← hright]
  exact ⟨inSequence_of hwalk _ _, inSequence_of hwalk _ _⟩

end

/-- Settles O19: the derived children, within the tree. -/
theorem traversalMovesToChild : Obligations.TraversalMovesToChild := by
  intro s hseq e hinternal hok
  obtain ⟨hzero, hone⟩ := exec_huf_at_internal hseq hinternal hok
  refine ⟨fun h => ?_, fun h => ?_⟩
  · exact hzero.trans (moveTo_within (by rwa [toNat_leftChild]))
  · exact hone.trans (moveTo_within (by rwa [toNat_rightChild]))

/-- Settles O20: the derived children, past the tree. -/
theorem traversalPastTreeRaises : Obligations.TraversalPastTreeRaises := by
  intro s hseq e failed hinternal hok
  obtain ⟨hzero, hone⟩ := exec_huf_at_internal hseq hinternal hok
  refine ⟨fun h => ?_, fun h => ?_⟩
  · rw [hzero, moveTo_past (by rwa [toNat_leftChild]), toNat_leftChild]
    rfl
  · rw [hone, moveTo_past (by rwa [toNat_rightChild]), toNat_rightChild]
    rfl

/-! ### The two ends of construction -/

/-- Settles O37: the root is entry 0, and no other entry is written. -/
theorem treeBegins : Obligations.TreeBegins := by
  intro s hp hseq hindex
  have hstep : step s = .next (beginTree s) := by
    rw [step_eq_run_fetch, fetch_of_pending_nil hp]
    simp only [fetchEngine, hseq, if_pos hindex, Fetched.run]
  have hbase : (beginTree s).bitBase.toNat = 16 + 2 * s.ch.huffmanTreeByteLength.toNat := by
    rw [beginTree_bitBase, BitVec.toNat_ofNat]
    omega
  have hothers (i : Nat) (hi : 0 < i) : treeAt (beginTree s) i = treeAt s i :=
    (treeAt_setTree 0 i rootNode s).trans (if_neg (by omega))
  exact ⟨_, hstep, toNat_beginTree_treeSize s, hbase, rfl, treeAt_setTree 0 0 rootNode s, hothers, rfl, hseq,
    rfl, rfl, rfl, rfl, rfl⟩

/-- Settles O38: past the last node, construction ends. -/
theorem treeEnds : Obligations.TreeEnds := by
  intro s hp hseq hlt
  have hindex : s.buildIndex ≠ 0 := by
    rintro h
    simp [h] at hlt
  rw [step_eq_run_fetch, fetch_of_pending_nil hp]
  simp only [fetchEngine, hseq, if_neg hindex, if_neg (Nat.not_le.mpr hlt), Fetched.run]
  rfl

end Sys2Proof.Machine

/-! ## Run counts and match lengths

Every count comes from a base table or from a field of at most 16 bits, a count of 0 starts no run, and a run is left
at its last item: so the counts in use stay from 1 to 65535 (42_runlength.md R225). -/

namespace Sys2Proof.Machine

/-! ### Counts in use -/

/-- A run count in use (42_runlength.md R225). -/
def IsCount (r : Word) : Prop := 0 < r.toNat ∧ r.toNat ≤ 0xFFFF

theorem isCount_of_ne_zero {r : Word} (hne : r ≠ 0) (hle : r.toNat ≤ 0xFFFF) : IsCount r := by
  refine ⟨?_, hle⟩
  bv_omega

/-- One item less is a count again unless it was the last item. -/
theorem IsCount.sub_one {r : Word} (h : IsCount r) (hne : r - 1 ≠ 0) : IsCount (r - 1) := by
  obtain ⟨hpos, hle⟩ := h
  refine isCount_of_ne_zero hne ?_
  bv_omega

/-- The sequencer states that use the run count. -/
def usesRun : Seq → Bool
  | .litSymbol | .matchItem | .matchCopy => true
  | _ => false

section
variable {s t : State}

/-! ### The counts over steps

What `InvRun` asks of a state, by its sequencer state. -/

theorem invRun_elsewhere (h : usesRun t.seq = false) : InvRun t := by
  refine ⟨?_, fun hseq => ?_, fun hseq => ?_⟩
  · rintro (hseq | hseq | hseq) <;> rw [hseq] at h <;> cases h
  all_goals
    rw [hseq] at h
    cases h

theorem invRun_litSymbol (hseq : t.seq = .litSymbol) (hrun : IsCount t.runRemaining) : InvRun t :=
  ⟨fun _ => hrun, fun h => (nomatch hseq.symm.trans h), fun h => (nomatch hseq.symm.trans h)⟩

theorem invRun_matchItem (hseq : t.seq = .matchItem) (hrun : IsCount t.runRemaining)
    (hlen : (t.lenRead.getD 0).toNat ≤ 0xFFFF) : InvRun t :=
  ⟨fun _ => hrun, fun _ => hlen, fun h => (nomatch hseq.symm.trans h)⟩

theorem invRun_matchCopy (hseq : t.seq = .matchCopy) (hrun : IsCount t.runRemaining) (hread : t.lenRead = none)
    (hmore : t.matchRemaining.toNat ≤ 0xFFFF) (hdist : t.matchDistance.toNat ≤ 0xFFFF) : InvRun t :=
  ⟨fun _ => hrun, fun h => (nomatch hseq.symm.trans h), fun _ => ⟨hread, hmore, hdist⟩⟩

theorem invRun_at_block {n k : Half} (hseq : t.seq = if n = k then .finish else .blockHeader) : InvRun t := by
  refine invRun_elsewhere ?_
  rw [hseq]
  split <;> rfl

/-! What it gives back in a run, at a match item, and in a copy. -/

theorem InvRun.at_run (hs : InvRun s) (h : usesRun s.seq = true) : IsCount s.runRemaining := by
  obtain ⟨hrun, _, _⟩ := hs
  refine hrun ?_
  cases hseq : s.seq <;> simp_all [usesRun]

theorem InvRun.at_matchItem (hs : InvRun s) (hseq : s.seq = .matchItem) :
    IsCount s.runRemaining ∧ (s.lenRead.getD 0).toNat ≤ 0xFFFF := by
  have hcount := hs.at_run (by rw [hseq]; rfl)
  obtain ⟨_, hlen, _⟩ := hs
  exact ⟨hcount, hlen hseq⟩

theorem InvRun.at_matchCopy (hs : InvRun s) (hseq : s.seq = .matchCopy) :
    IsCount s.runRemaining ∧ s.lenRead = none ∧ s.matchRemaining.toNat ≤ 0xFFFF ∧
      s.matchDistance.toNat ≤ 0xFFFF := by
  have hcount := hs.at_run (by rw [hseq]; rfl)
  obtain ⟨_, _, hcopy⟩ := hs
  exact ⟨hcount, hcopy hseq⟩

/-! Each move that sets a count. -/

/-- A run count of 0 ends the block; any other is in use from here on (43_block.md R251). -/
theorem invRun_loadRunCount {r : Word} (hr : r.toNat ≤ 0xFFFF) (s : State) : InvRun (loadRunCount r s) := by
  rcases loadRunCount_cases r s with ⟨_, e⟩ | ⟨hne, _, e⟩ | ⟨hne, _, e⟩ <;> rw [e]
  · exact invRun_at_block (endCompressedBlock_seq s)
  · exact invRun_litSymbol rfl (isCount_of_ne_zero hne hr)
  · exact invRun_matchItem rfl (isCount_of_ne_zero hne hr) (Nat.zero_le _)

/-- The run is left at its last literal (43_block.md R233). -/
theorem InvRun.literal (hs : InvRun s) (hseq : s.seq = .litSymbol) (hrun : t.runRemaining = s.runRemaining - 1)
    (ht : t.seq = if s.runRemaining - 1 = 0 then .matchCount else .litSymbol) : InvRun t := by
  have hcount := hs.at_run (by rw [hseq]; rfl)
  split at ht
  case isTrue => exact invRun_elsewhere (by rw [ht]; rfl)
  case isFalse hne => exact invRun_litSymbol ht (hrun ▸ hcount.sub_one hne)

/-- The run is left at its last match (43_block.md R247 step (1)). -/
theorem InvRun.endMatch (hs : InvRun s) (hseq : s.seq = .matchCopy) : InvRun (endMatch s) := by
  obtain ⟨hcount, hread, _, _⟩ := hs.at_matchCopy hseq
  have ht := endMatch_seq s
  split at ht
  case isTrue => exact invRun_elsewhere (by rw [ht]; rfl)
  case isFalse hne => exact invRun_matchItem ht (hcount.sub_one hne) (by simp [hread])

theorem InvRun.engineMove (hs : InvRun s) (h : EngineMove s t) : InvRun t := by
  cases h with
  | rest => exact hs
  | fail | finish | acceptContainer | beginStored | beginCompressed => exact invRun_elsewhere rfl
  | beginTree hseq | buildNode _ _ hseq | storedByte _ hseq =>
    have hnone : usesRun s.seq = false := by rw [hseq]; rfl
    exact invRun_elsewhere hnone
  | endTree => exact invRun_at_block (endTree_seq s)
  | endStored => exact invRun_at_block (endStoredBlock_seq s)
  | runCount r p _ hr => exact invRun_loadRunCount hr _
  | descend n p hseq => exact invRun_litSymbol hseq (hs.at_run (by rw [hseq]; rfl))
  | literal v hseq => exact hs.literal hseq rfl rfl
  | matchLength len p hseq hlen => exact invRun_matchItem hseq (hs.at_run (by rw [hseq]; rfl)) hlen
  | matchDistance len dist p hseq hread hdist =>
    obtain ⟨hcount, hlen⟩ := hs.at_matchItem hseq
    rw [hread] at hlen
    exact invRun_matchCopy rfl hcount rfl hlen hdist
  | copyByte v hseq hmore =>
    obtain ⟨hcount, hread, hle, hdist⟩ := hs.at_matchCopy hseq
    have hless : (s.matchRemaining - 1).toNat ≤ 0xFFFF := by bv_omega
    exact invRun_matchCopy hseq hcount hread hless hdist
  | endMatch hseq => exact hs.endMatch hseq

theorem InvRun.hostMove (hs : InvRun s) (h : HostMove s t) : InvRun t := by
  cases h with
  | start | reset => exact invRun_elsewhere rfl
  | write | answer => exact hs

end

/-- Settles O55, over the moves of the engine and of the host. -/
theorem stepKeepsCounts : Obligations.StepKeepsCounts := fun _ _ =>
  step_keeps (fun _ _ hs => hs) (fun _ _ h hs => hs.engineMove h) (fun _ _ h hs => hs.hostMove h)

/-! ### Match lengths -/

/-- A field of legal width is used with its value (30_encoding.md R148). -/
theorem withField_legal {w : Byte} {v : Half} {x : Word} (h : legalField w v = some x) (s : State)
    (use : Word → Result) : withField w v s use = use x := by
  obtain ⟨hw, hx⟩ := Option.ite_none_right_eq_some.mp h
  obtain rfl := Option.some.inj hx
  exact if_neg (Nat.not_lt.mpr hw)

/-- `FB(k)` is entry 0 of the match length base table under BASE0, entry `k` under SELECTOR (42_runlength.md R218). -/
theorem fallback_eq (s : State) (k : Fin 4) : fallback s k =
    (if s.matchFallback = .base0 then s.bh.matchLengthBaseTable[0] else s.bh.matchLengthBaseTable[k]).setWidth 32 := by
  unfold fallback
  cases s.matchFallback <;> rfl

/-- Settles O16: a base or fallback form loads its entry, an EXT form its field. -/
theorem matchLengthLoads : Obligations.MatchLengthLoads := by
  intro s i len hseq hread hvalue
  have hhere : lengthSeq s = true := decide_eq_true ⟨hseq, hread⟩
  have hbase (m : String) {x : Word} (hx : x = len) : execLengthBase m x s = .next (loadLength len s) :=
    hx ▸ inSequence_of hhere _ _
  cases i with
  | mcBase0 => exact hbase _ (Option.some.inj hvalue)
  | mcFb1 => exact hbase _ ((fallback_eq s 1).trans (Option.some.inj hvalue))
  | mcFb2 => exact hbase _ ((fallback_eq s 2).trans (Option.some.inj hvalue))
  | mcFb3 => exact hbase _ ((fallback_eq s 3).trans (Option.some.inj hvalue))
  | mcExt1 v | mcExt2 v | mcExt3 v =>
    exact (inSequence_of hhere _ _).trans (withField_legal hvalue s _)
  | _ => nomatch hvalue

end Sys2Proof.Machine

/-! ## Blocks: their headers, their counts, and the bytes they write

What the sequencer's own steps do where they read no code word, the runs of those steps over a whole match and a
whole stored block, and the code words that begin them (43_block.md R231 to R254). -/

namespace Sys2Proof.Machine

section
variable {s : State}

/-! ### The engine's step, by its sequencer state -/

theorem step_of_pending_nil (hp : s.pending = []) : step s = (fetchEngine s).run := by
  rw [step_eq_run_fetch, fetch_of_pending_nil hp]

theorem step_of_blockHeader (hp : s.pending = []) (hseq : s.seq = .blockHeader) :
    step s = (fetchBlock s).toFetched.run := by
  simp only [step_of_pending_nil hp, fetchEngine, hseq]

theorem step_of_storedCopy (hp : s.pending = []) (hseq : s.seq = .storedCopy) :
    step s = (stepStored s).toResult := by
  simp only [step_of_pending_nil hp, fetchEngine, hseq, Fetched.run]

theorem step_of_leaf (hp : s.pending = []) (hseq : s.seq = .litSymbol)
    (hleaf : (treeAt s s.node.toNat).isLeaf = true) : step s = (emitLiteral s).toResult := by
  simp only [step_of_pending_nil hp, fetchEngine, hseq, if_pos hleaf, Fetched.run]

theorem step_of_matchCopy (hp : s.pending = []) (hseq : s.seq = .matchCopy) :
    step s = (stepCopy s).toResult := by
  simp only [step_of_pending_nil hp, fetchEngine, hseq, Fetched.run]

end

/-! ### The steps that write a byte -/

/-- Settles O32, by the cases of one copying step. -/
theorem copyStep : Obligations.CopyStep := by
  intro s hp hseq
  rw [step_of_matchCopy hp hseq]
  rcases stepCopy_cases s with ⟨hdone, e⟩ | ⟨hmore, hback, e⟩ | ⟨hmore, hback, hread, e⟩ |
    ⟨hmore, hback, hread, hcap, e⟩ | ⟨hmore, hback, hcap, e⟩ <;> rw [e]
  · rw [if_pos hdone]
    rfl
  · rw [if_neg hmore, if_pos hback, Res.toResult_raise]
  · rw [if_neg hmore, if_neg (Nat.not_lt.mpr hback), if_pos hread, Res.toResult_raise]
  · rw [if_neg hmore, if_neg (Nat.not_lt.mpr hback), if_neg (Nat.not_le.mpr hread), if_pos hcap, Res.toResult_raise]
  · have hread : ¬ s.dstCap.toNat ≤ s.writePos.toNat - s.matchDistance.toNat := by omega
    rw [if_neg hmore, if_neg (Nat.not_lt.mpr hback), if_neg hread, if_neg (Nat.not_le.mpr hcap), Res.toResult_ok]

/-- Settles O36, by the cases of one step of a stored block. -/
theorem storedByteFaultOrder : Obligations.StoredByteFaultOrder := by
  intro s hp hseq hindex
  rw [step_of_storedCopy hp hseq]
  rcases stepStored_cases s with ⟨hdone, _⟩ | ⟨_, hsrc, e⟩ | ⟨_, hsrc, hcap, e⟩ | ⟨_, hsrc, hcap, e⟩
  · omega
  · exact ⟨fun _ => by rw [e, Res.toResult_raise], fun h => by omega, fun h => by omega⟩
  · exact ⟨fun h => by omega, fun _ _ => by rw [e, Res.toResult_raise], fun _ h => by omega⟩
  · exact ⟨fun h => by omega, fun _ h => by omega, fun _ _ => by rw [e, Res.toResult_ok]⟩

/-- Settles O31, by the cases of one literal's write. -/
theorem literalIsWritten : Obligations.LiteralIsWritten := by
  intro s hp hseq hleaf
  rw [step_of_leaf hp hseq hleaf]
  rcases emitLiteral_cases s with ⟨hcap, e⟩ | ⟨hcap, e⟩
  · exact ⟨fun _ => by rw [e, Res.toResult_ok], fun h => by omega⟩
  · exact ⟨fun h => by omega, fun _ => by rw [e, Res.toResult_raise]⟩

/-! ### Runs -/

theorem run_of_step {s t : State} (h : step s = .next t) (k : Nat) : core.run (k + 1) s = core.run k t := by
  simp only [Host.Core.run, core, h]

/-! ### The bytes of a match

A match copies within the destination, one byte after the other (43_block.md R247), so it can read back what it has
itself written. -/

/-- `n` bytes copied one after the other to `p` on, each from `d` before it. -/
def Memory.copyBack (m : Memory) (p d : Nat) : Nat → Memory
  | 0 => m
  | n + 1 => Memory.copyBack (m.write p (m.read (p - d))) (p + 1) d n

theorem Memory.read_copyBack_outside (m : Memory) {p d n a : Nat} (h : a < p ∨ p + n ≤ a) :
    (m.copyBack p d n).read a = m.read a := by
  induction n generalizing m p with
  | zero => rfl
  | succ n ih => rw [copyBack, ih _ (by omega), read_write_other _ _ (by omega)]

theorem Memory.read_copyBack_zero (m : Memory) (p n a : Nat) : (m.copyBack p 0 n).read a = m.read a := by
  induction n generalizing m p with
  | zero => rfl
  | succ n ih =>
    rw [copyBack, ih, Nat.sub_zero, read_write]
    split
    · rw [‹a = p›]
    · rfl

/-- In the memory the copy leaves, each copied byte is the byte `d` before it. -/
theorem Memory.read_copyBack_inside (m : Memory) {p d n k : Nat} (hd : 1 ≤ d) (hp : d ≤ p) (hk : k < n) :
    (m.copyBack p d n).read (p + k) = (m.copyBack p d n).read (p + k - d) := by
  induction n generalizing m p k with
  | zero => exact absurd hk (Nat.not_lt_zero k)
  | succ n ih =>
    rw [copyBack]
    cases k with
    | zero =>
      rw [read_copyBack_outside _ (by omega), read_copyBack_outside _ (by omega), Nat.add_zero, read_write_self,
        read_write_other _ _ (by omega)]
    | succ k =>
      rw [← Nat.add_assoc, Nat.add_right_comm]
      exact ih _ (by omega) (by omega)

/-- So the copied bytes repeat the `d` bytes before them (43_block.md R248). -/
theorem Memory.read_copyBack_period (m : Memory) {p d n : Nat} (hd : 1 ≤ d) (hp : d ≤ p) (k : Nat) (hk : k < n) :
    (m.copyBack p d n).read (p + k) = m.read (p - d + k % d) := by
  induction k using Nat.strong_induction_on with
  | _ k ih =>
    rw [read_copyBack_inside m hd hp hk]
    rcases Nat.lt_or_ge k d with hlt | hge
    · rw [read_copyBack_outside m (by omega), Nat.mod_eq_of_lt hlt, Nat.sub_add_comm hp]
    · rw [Nat.add_sub_assoc hge, ih (k - d) (by omega) (by omega), ← Nat.mod_eq_sub_mod hge]

/-- `s` with one byte of its match copied (43_block.md R247). -/
def copyNext (s : State) : State :=
  { s with
    dst := s.dst.write s.writePos.toNat (s.dst.read (s.writePos.toNat - s.matchDistance.toNat)),
    writePos := s.writePos + 1, matchRemaining := s.matchRemaining - 1 }

theorem step_copyNext {s : State} (hp : s.pending = []) (hseq : s.seq = .matchCopy) (hmore : s.matchRemaining ≠ 0)
    (hdist : s.matchDistance.toNat ≤ s.writePos.toNat) (hcap : s.writePos.toNat < s.dstCap.toNat) :
    step s = .next (copyNext s) := by
  rw [copyStep s hp hseq, if_neg hmore, if_neg (by omega), if_neg (by omega), if_neg (by omega)]
  rfl

/-- A whole match, its raises ruled out: its bytes are copied, `writePos` moves by its length, nothing is left to
copy, and nothing else changes (43_block.md R247). -/
theorem run_matchCopy {s : State} {n : Nat} (hn : s.matchRemaining.toNat = n) (hp : s.pending = [])
    (hseq : s.seq = .matchCopy) (hdist : s.matchDistance.toNat ≤ s.writePos.toNat)
    (hroom : s.writePos.toNat + n ≤ s.dstCap.toNat) :
    core.run n s = .next { s with
      dst := s.dst.copyBack s.writePos.toNat s.matchDistance.toNat n,
      writePos := s.writePos + s.matchRemaining, matchRemaining := 0 } := by
  induction n generalizing s with
  | zero =>
    have hzero : s.matchRemaining = 0 := BitVec.eq_of_toNat_eq hn
    have hpos : s.writePos + s.matchRemaining = s.writePos := by rw [hzero]; exact BitVec.add_zero _
    rw [hpos, ← hzero]
    rfl
  | succ n ih =>
    have hcap : s.writePos.toNat < s.dstCap.toNat := by omega
    have hmore : s.matchRemaining ≠ 0 := by
      intro h
      simp [h] at hn
    have hpos : (copyNext s).writePos.toNat = s.writePos.toNat + 1 := toNat_writePos_add_one hcap
    have hless : (copyNext s).matchRemaining.toNat = n := by
      simp only [copyNext]
      bv_omega
    have hsum : (copyNext s).writePos + (copyNext s).matchRemaining = s.writePos + s.matchRemaining := by
      simp only [copyNext]
      bv_omega
    have hrest := ih (s := copyNext s) hless hp hseq (hpos ▸ Nat.le_succ_of_le hdist)
      (by rw [hpos, Nat.add_right_comm]; exact hroom)
    rw [hsum, hpos] at hrest
    exact (run_of_step (step_copyNext hp hseq hmore hdist hcap) n).trans hrest

theorem toNat_writePos_add_matchRemaining {s : State}
    (h : s.writePos.toNat + s.matchRemaining.toNat ≤ s.dstCap.toNat) :
    (s.writePos + s.matchRemaining).toNat = s.writePos.toNat + s.matchRemaining.toNat := by
  bv_omega

/-- Settles O33, by the run of a whole match and the period of its bytes. -/
theorem matchReplicatesPeriod : Obligations.MatchReplicatesPeriod := by
  intro s hp hseq hpos hdist hroom
  exact ⟨_, run_matchCopy rfl hp hseq hdist hroom, toNat_writePos_add_matchRemaining hroom, rfl, hseq, rfl, rfl,
    s.dst.read_copyBack_period hpos hdist, fun a ha => s.dst.read_copyBack_outside ha⟩

/-- Settles O34, by the run of a whole match, each byte of which is written over itself. -/
theorem zeroDistanceMatchKeepsBytes : Obligations.ZeroDistanceMatchKeepsBytes := by
  intro s hp hseq hzero hroom
  have hdist : s.matchDistance.toNat = 0 := by rw [hzero]; rfl
  refine ⟨_, run_matchCopy rfl hp hseq (by omega) hroom, toNat_writePos_add_matchRemaining hroom, rfl, hseq,
    fun a => ?_⟩
  rw [hdist]
  exact s.dst.read_copyBack_zero _ _ a

/-! ### The bytes of a stored block -/

theorem Memory.read_writeBytes_outside (m : Memory) {p a : Nat} {l : List Byte} (h : a < p ∨ p + l.length ≤ a) :
    (m.writeBytes p l).read a = m.read a := by
  induction l generalizing m p with
  | nil => rfl
  | cons v l ih =>
    rw [List.length_cons] at h
    rw [writeBytes, ih _ (by omega), read_write_other _ _ (by omega)]

theorem Memory.read_writeBytes_inside (m : Memory) {p k : Nat} {l : List Byte} (h : k < l.length) :
    (m.writeBytes p l).read (p + k) = l[k] := by
  induction l generalizing m p k with
  | nil => exact absurd h (Nat.not_lt_zero k)
  | cons v l ih =>
    rw [writeBytes]
    cases k with
    | zero => rw [read_writeBytes_outside _ (by omega), Nat.add_zero, read_write_self, List.getElem_cons_zero]
    | succ k =>
      rw [show p + (k + 1) = p + 1 + k by omega, ih _ (by simpa using h), List.getElem_cons_succ]

/-- The `n` bytes from `a` on. -/
def Memory.bytesFrom (m : Memory) (a n : Nat) : List Byte := (List.range' a n).map m.read

@[simp] theorem Memory.length_bytesFrom (m : Memory) (a n : Nat) : (m.bytesFrom a n).length = n := by
  rw [bytesFrom, List.length_map, List.length_range']

theorem Memory.bytesFrom_succ (m : Memory) (a n : Nat) :
    m.bytesFrom a (n + 1) = m.read a :: m.bytesFrom (a + 1) n := by
  rw [bytesFrom, List.range'_succ, List.map_cons, bytesFrom]

theorem Memory.getElem_bytesFrom (m : Memory) {a n k : Nat} (h : k < (m.bytesFrom a n).length) :
    (m.bytesFrom a n)[k] = m.read (a + k) := by
  simp [bytesFrom]

/-- `s` with one byte of its stored block copied (43_block.md R253). -/
def storeNext (s : State) : State :=
  { s with
    dst := s.dst.write s.writePos.toNat (s.src.read (s.blockStart.toNat + 4 + s.storedIndex.toNat)),
    writePos := s.writePos + 1, storedIndex := s.storedIndex + 1 }

/-- The rest of a stored block, its raises ruled out: the `n` bytes left are copied, and one more step frames the next
block (43_block.md R253, R254). -/
theorem run_storedCopy {s : State} {n : Nat} (hn : s.storedIndex.toNat + n = s.bh.uncompressedLength.toNat)
    (hp : s.pending = []) (hseq : s.seq = .storedCopy)
    (hsrc : s.blockStart.toNat + 4 + s.bh.uncompressedLength.toNat ≤ s.srcLen.toNat)
    (hroom : s.writePos.toNat + n ≤ s.dstCap.toNat) :
    core.run (n + 1) s = .next (endStoredBlock { s with
      dst := s.dst.writeBytes s.writePos.toNat (s.src.bytesFrom (s.blockStart.toNat + 4 + s.storedIndex.toNat) n),
      writePos := s.writePos + BitVec.ofNat 32 n, storedIndex := s.bh.uncompressedLength }) := by
  induction n generalizing s with
  | zero =>
    have hindex : s.bh.uncompressedLength = s.storedIndex := BitVec.eq_of_toNat_eq hn.symm
    have hstep : step s = .next (endStoredBlock s) := by
      rw [step_of_storedCopy hp hseq, stepStored, if_neg (by omega), Res.toResult_ok]
    have hpos : s.writePos + BitVec.ofNat 32 0 = s.writePos := BitVec.add_zero _
    rw [hpos, hindex]
    exact run_of_step hstep 0
  | succ n ih =>
    have hcap : s.writePos.toNat < s.dstCap.toNat := by omega
    obtain ⟨_, _, hwritten⟩ := storedByteFaultOrder s hp hseq (by omega)
    have hstep : step s = .next (storeNext s) := hwritten (by omega) hcap
    have hpos : (storeNext s).writePos.toNat = s.writePos.toNat + 1 := toNat_writePos_add_one hcap
    have hindex : (storeNext s).storedIndex.toNat = s.storedIndex.toNat + 1 := by
      simp only [storeNext]
      bv_omega
    have hsum : (storeNext s).writePos + BitVec.ofNat 32 n = s.writePos + BitVec.ofNat 32 (n + 1) := by
      simp only [storeNext]
      bv_omega
    have hrest := ih (s := storeNext s) (by rw [hindex, Nat.add_right_comm]; exact hn) hp hseq hsrc
      (by rw [hpos, Nat.add_right_comm]; exact hroom)
    rw [hsum, hpos, hindex] at hrest
    rw [Memory.bytesFrom_succ]
    exact (run_of_step hstep (n + 1)).trans hrest

/-- Settles O35, by the run of a whole stored block and the reads of the bytes it writes. -/
theorem storedBlockCopiesVerbatim : Obligations.StoredBlockCopiesVerbatim := by
  intro s hp hseq hindex hsrc hroom
  have hzero : s.storedIndex.toNat = 0 := by rw [hindex]; rfl
  refine ⟨_, run_storedCopy (by omega) hp hseq hsrc hroom, ?_, ?_, rfl, rfl, rfl, rfl, rfl, fun k hk => ?_,
    fun a ha => ?_⟩
  · simp only [endStoredBlock_writePos]
    bv_omega
  · simp only [endStoredBlock_blockStart]
    bv_omega
  · rw [endStoredBlock_dst, Memory.read_writeBytes_inside _ (by simpa using hk), Memory.getElem_bytesFrom, hzero,
      Nat.add_zero]
  · exact s.dst.read_writeBytes_outside (by simpa using ha)

/-! ### A block header cut short -/

theorem srcRead16_overrun {a : Nat} {s : State} (h : s.srcLen.toNat ≤ a + 1) :
    srcRead16 a s = raise .sourceOverrun (max a s.srcLen.toNat) s := by
  rcases srcRead16_cases a s with ⟨h', _⟩ | ⟨_, e⟩
  · omega
  · exact e

/-- The two lengths, one of their 4 bytes missing: the fetch raises at the lowest (43_block.md R231 step (1)). -/
theorem fetchBlock_overrun {s : State} (h : s.srcLen.toNat ≤ s.blockStart.toNat + 3) :
    ∃ bh, fetchBlock s = raise .sourceOverrun (max s.blockStart.toNat s.srcLen.toNat) { s with bh := bh } := by
  rw [fetchBlock]
  rcases srcRead16_cases s.blockStart.toNat s with ⟨hfirst, e⟩ | ⟨_, e⟩
  · have hsecond (bh : BlockHeader) : srcRead16 (s.blockStart.toNat + 2) { s with bh := bh } =
        raise .sourceOverrun (max (s.blockStart.toNat + 2) s.srcLen.toNat) { s with bh := bh } :=
      srcRead16_overrun (show s.srcLen.toNat ≤ _ by omega)
    have hmax : max (s.blockStart.toNat + 2) s.srcLen.toNat = max s.blockStart.toNat s.srcLen.toNat := by omega
    exact ⟨_, by rw [e, Res.bind_ok, hsecond, Res.bind_raise, hmax]⟩
  · exact ⟨s.bh, by rw [e, Res.bind_raise]⟩

/-- `f` reads the header bytes from `lo` to below `hi` and writes `bh` alone, or raises SourceOverrun at the first of
them that is missing. -/
def LoadsAt (lo hi : Nat) (f : State → Res Unit) : Prop :=
  ∀ s, (s.blockStart.toNat + hi ≤ s.srcLen.toNat ∧ ∃ bh, f s = .ok () { s with bh := bh }) ∨
    (s.srcLen.toNat < s.blockStart.toNat + hi ∧
      f s = raise .sourceOverrun (max (s.blockStart.toNat + lo) s.srcLen.toNat) s)

/-- The loads `fs` read the header bytes from `lo` to below `hi`, each beginning where the one before it ends. -/
inductive LoadsInOrder : Nat → Nat → List (State → Res Unit) → Prop
  | nil (lo : Nat) : LoadsInOrder lo lo []
  | cons {lo mid hi : Nat} {f : State → Res Unit} {fs : List (State → Res Unit)} (hf : LoadsAt lo mid f)
      (hfs : LoadsInOrder mid hi fs) : LoadsInOrder lo hi (f :: fs)

/-- A load of the byte at `lo` (00_scope.md R25). -/
theorem loadsAt_byte {lo : Nat} {f : State → Res Unit} {store : Byte → State → BlockHeader}
    (hf : ∀ s, f s = (srcRead (s.blockStart.toNat + lo) s).bind fun v s => .ok () { s with bh := store v s }) :
    LoadsAt lo (lo + 1) f := by
  intro s
  rw [hf]
  rcases srcRead_cases (s.blockStart.toNat + lo) s with ⟨h, e⟩ | ⟨h, e⟩
  · exact .inl ⟨by omega, _, by rw [e, Res.bind_ok]⟩
  · exact .inr ⟨by omega, by rw [e, Res.bind_raise, max_eq_left h]⟩

/-- A load of the half word at `lo`, its low byte first (00_scope.md R25). -/
theorem loadsAt_half {lo : Nat} {f : State → Res Unit} {store : Half → State → BlockHeader}
    (hf : ∀ s, f s = (srcRead16 (s.blockStart.toNat + lo) s).bind fun v s => .ok () { s with bh := store v s }) :
    LoadsAt lo (lo + 2) f := by
  intro s
  rw [hf]
  rcases srcRead16_cases (s.blockStart.toNat + lo) s with ⟨h, e⟩ | ⟨h, e⟩
  · exact .inl ⟨by omega, _, by rw [e, Res.bind_ok]⟩
  · exact .inr ⟨by omega, by rw [e, Res.bind_raise]⟩

/-- Loads in order, cut short inside their bytes, raise at the first missing byte. -/
theorem LoadsInOrder.overrun {lo hi : Nat} {fs : List (State → Res Unit)} (h : LoadsInOrder lo hi fs) {s : State}
    (hlo : s.blockStart.toNat + lo ≤ s.srcLen.toNat) (hhi : s.srcLen.toNat < s.blockStart.toNat + hi) :
    ∃ bh, Res.seqAll fs s = raise .sourceOverrun s.srcLen.toNat { s with bh := bh } := by
  induction h generalizing s with
  | nil => omega
  | cons hf _ ih =>
    rw [Res.seqAll_cons]
    rcases hf s with ⟨hmid, bh, e⟩ | ⟨_, e⟩
    · rw [e, Res.bind_ok]
      exact ih hmid hhi
    · exact ⟨s.bh, by rw [e, Res.bind_raise, max_eq_right hlo]⟩

/-- The tables fill the header's bytes 4 to 23 (30_encoding.md R131). -/
theorem loadTables_overrun {s : State} (hlo : s.blockStart.toNat + 4 ≤ s.srcLen.toNat)
    (hhi : s.srcLen.toNat < s.blockStart.toNat + 24) :
    ∃ bh, loadTables s = raise .sourceOverrun s.srcLen.toNat { s with bh := bh } := by
  have base (j : Fin 4) : LoadsAt (4 + 2 * j) (4 + 2 * j + 2) (loadMatchBase j) :=
    loadsAt_half fun s => by rw [← Nat.add_assoc]; rfl
  have offsetWidth (j : Fin 4) : LoadsAt (12 + j) (12 + j + 1) (loadOffsetWidth j) :=
    loadsAt_byte fun s => by rw [← Nat.add_assoc]; rfl
  have matchWidth (j : Fin 3) : LoadsAt (16 + j) (16 + j + 1) (loadMatchWidth j) :=
    loadsAt_byte fun s => by rw [← Nat.add_assoc]; rfl
  have runWidth (j : Fin 3) : LoadsAt (19 + j) (19 + j + 1) (loadRunWidth j) :=
    loadsAt_byte fun s => by rw [← Nat.add_assoc]; rfl
  have runBase (j : Fin 2) : LoadsAt (22 + j) (22 + j + 1) (loadRunBase j) :=
    loadsAt_byte fun s => by rw [← Nat.add_assoc]; rfl
  exact LoadsInOrder.overrun (.cons (base 0) <| .cons (base 1) <| .cons (base 2) <| .cons (base 3) <|
    .cons (offsetWidth 0) <| .cons (offsetWidth 1) <| .cons (offsetWidth 2) <| .cons (offsetWidth 3) <|
    .cons (matchWidth 0) <| .cons (matchWidth 1) <| .cons (matchWidth 2) <|
    .cons (runWidth 0) <| .cons (runWidth 1) <| .cons (runWidth 2) <|
    .cons (runBase 0) <| .cons (runBase 1) <| .nil 24) hlo hhi

/-- Settles O25: the fetch raises in the two lengths, the meaning of BLOCK.COMPRESSED in the tables. -/
theorem compressedBlockHeaderOverrun : Obligations.CompressedBlockHeaderOverrun := by
  intro s hseq kept
  constructor
  · intro hp hshort
    obtain ⟨bh, e⟩ := fetchBlock_overrun hshort
    have hstep : step s =
        .next (takeFailure .sourceOverrun (max s.blockStart.toNat s.srcLen.toNat) { s with bh := bh }) := by
      rw [step_of_blockHeader hp hseq, e, Res.toFetched_raise, Fetched.run]
    exact ⟨_, hstep, ⟨rfl, rfl, rfl, rfl, rfl, rfl⟩, rfl, rfl, rfl, rfl, rfl, rfl, rfl⟩
  · intro u c hlo hhi
    obtain ⟨bh, e⟩ := loadTables_overrun (s := setLengths u c s) hlo (Nat.lt_succ_of_le hhi)
    have hexec : exec (.blockCompressed u c) s =
        .next (takeFailure .sourceOverrun s.srcLen.toNat { setLengths u c s with bh := bh }) :=
      (inSequence_of (decide_eq_true hseq) _ _).trans (by rw [e, Res.bind_raise, Res.toResult_raise]; rfl)
    exact ⟨_, hexec, ⟨rfl, rfl, rfl, rfl, rfl, rfl⟩, rfl, rfl, rfl, rfl, rfl, rfl, rfl⟩

/-! ### Code words of a block -/

/-- An LR code word of legal width loads its value of the table of R141. -/
theorem exec_of_runValue {s : State} {i : Instr} {r : Word} (hhere : countSeq s = true)
    (hvalue : runValue s i = some r) : exec i s = .next (loadRunCount r s) := by
  cases i with
  | lrBase0 | lrBase1 =>
    obtain rfl := Option.some.inj hvalue
    exact inSequence_of hhere _ _
  | lrExt1 v | lrExt2 v | lrExt3 v =>
    exact (inSequence_of hhere _ _).trans (withField_legal hvalue s _)
  | _ => nomatch hvalue

/-- Settles O14, by the count that the code word loads. -/
theorem literalRunCountLoads : Obligations.LiteralRunCountLoads := by
  intro s i r hseq hvalue
  rw [exec_of_runValue (decide_eq_true (.inl hseq)) hvalue, loadRunCount, if_pos hseq]
  rfl

/-- Settles O15, by the count that the code word loads. -/
theorem matchRunCountLoads : Obligations.MatchRunCountLoads := by
  intro s i r hseq hvalue
  have hother : s.seq ≠ .litCount := by rw [hseq]; nofun
  rw [exec_of_runValue (decide_eq_true (.inr hseq)) hvalue, loadRunCount, if_neg hother]
  rfl

/-- Settles O17: an offset code word loads its field. -/
theorem matchOffsetLoads : Obligations.MatchOffsetLoads := by
  intro s i len dist hseq hread hvalue
  cases i with
  | of0 d | of1 d | of2 d | of3 d =>
    simp only [exec, execOf0, execOf1, execOf2, execOf3, execOffset, hread]
    exact (inSequence_of (decide_eq_true hseq) _ _).trans (withField_legal hvalue s _)
  | _ => nomatch hvalue

/-- Settles O23: BLOCK.STORED is read at a block header. -/
theorem storedBlockBegins : Obligations.StoredBlockBegins := by
  intro s k hseq
  exact inSequence_of (decide_eq_true hseq) _ _

end Sys2Proof.Machine

/-! ## The container: its check, the START command, FINISH

The meanings of 44_container.md R270 to R279 that a decode runs once. -/

namespace Sys2Proof.Machine

/-- The container header with this signature and the other fields as the header bytes hold them (30_encoding.md
R120). -/
def headerFrom (byte : Nat → Byte) (signature : Word) : ContainerHeader :=
  { signature := signature
    uncompressedLength := le32 (byte 4) (byte 5) (byte 6) (byte 7)
    compressedLength := le32 (byte 8) (byte 9) (byte 10) (byte 11)
    blockCount := le16 (byte 12) (byte 13)
    reserved := byte 14
    huffmanTreeByteLength := byte 15 }

theorem srcRead32_ok {a : Nat} {s : State} (h : a + 3 < s.srcLen.toNat) : srcRead32 a s =
    .ok (le32 (s.src.read a) (s.src.read (a + 1)) (s.src.read (a + 2)) (s.src.read (a + 3))) s := by
  rcases srcRead32_cases a s with ⟨_, e⟩ | ⟨h', _⟩
  · exact e
  · omega

/-- With all 16 header bytes below SRC_LEN, every field of the container header is loaded (44_container.md R272). -/
theorem loadContainerHeader_ok {s : State} (h : 16 ≤ s.srcLen.toNat) :
    loadContainerHeader s = .ok () { s with ch := headerFrom s.src.read s.ch.signature } := by
  have word {a : Nat} (ha : a + 3 < 16) (ch : ContainerHeader) := srcRead32_ok (a := a) (s := { s with ch := ch })
    (Nat.lt_of_lt_of_le ha h)
  have half {a : Nat} (ha : a + 1 < 16) (ch : ContainerHeader) := srcRead16_ok (a := a) (s := { s with ch := ch })
    (Nat.lt_of_lt_of_le ha h)
  have byte {a : Nat} (ha : a < 16) (ch : ContainerHeader) := srcRead_ok (a := a) (s := { s with ch := ch })
    (Nat.lt_of_lt_of_le ha h)
  have hfirst := word (a := 4) (by decide) s.ch
  simp only [loadContainerHeader, Res.seqAll_cons, hfirst, word (a := 8) (by decide), half (a := 12) (by decide),
    byte (a := 14) (by decide), byte (a := 15) (by decide), Res.bind_ok, Res.seqAll_nil]
  rfl

theorem execContainer_of_magic {s : State} (hseq : s.seq = .validate) (hmagic : s.ch.signature = magic) :
    execContainer s = ((loadContainerHeader s).bind fun _ s => checkCapacity s).toResult :=
  (inSequence_of (decide_eq_true hseq) _ _).trans (if_pos hmagic)

theorem execContainer_of_ne_magic {s : State} (hseq : s.seq = .validate) (hmagic : s.ch.signature ≠ magic) :
    execContainer s = .next (takeFailure .signatureMismatch 0 s) :=
  (inSequence_of (decide_eq_true hseq) _ _).trans (if_neg hmagic)

theorem checkCapacity_ok {s : State} (h : s.ch.uncompressedLength.toNat ≤ s.dstCap.toNat) :
    checkCapacity s = .ok () { s with buildIndex := 0, seq := .buildTree } := if_neg (Nat.not_lt.mpr h)

/-- Settles O26: the header is loaded whole, and the capacity suffices. -/
theorem containerHeaderAccepted : Obligations.ContainerHeaderAccepted := by
  intro s hseq hmagic hlen byte hcap
  have hcheck := checkCapacity_ok (s := { s with ch := headerFrom s.src.read magic }) hcap
  refine (execContainer_of_magic hseq hmagic).trans ?_
  rw [loadContainerHeader_ok hlen, Res.bind_ok, hmagic, hcheck, Res.toResult_ok]
  rfl

/-- Settles O28: the failure entry, with nothing read. -/
theorem signatureMismatchRaises : Obligations.SignatureMismatchRaises := by
  intro s hseq hmagic
  exact execContainer_of_ne_magic hseq hmagic

/-- Settles O29, by the two branches of CMD.START. -/
theorem startBeginsDecode : Obligations.StartBeginsDecode := by
  intro s p
  refine ⟨fun hidle => ?_, fun hbusy => ?_⟩
  · exact if_neg (by simp [hidle])
  · exact if_pos hbusy

theorem step_of_finish {s : State} (hp : s.pending = []) (hseq : s.seq = .finish) :
    step s = .next (finishDecode s) := by
  simp only [step_of_pending_nil hp, fetchEngine, hseq, Fetched.run]

theorem statusWord_of_done {s : State} (hseq : s.seq = .done) (hcode : s.code = 0) : statusWord s = 2 := by
  rw [statusWord_eq, hseq, hcode]
  decide

/-- Settles O39: the engine's step in FINISH, and STATUS of the state it ends in. -/
theorem finishReports : Obligations.FinishReports := fun _ hp hseq =>
  ⟨step_of_finish hp hseq, statusWord_of_done rfl rfl⟩

end Sys2Proof.Machine

/-! ## Two decodes of one launch

A simulation between two cores that hold the same launch (44_container.md R282, R283). What they must agree on is what
the decode can still read: the registers that START sets, and of the others those that an earlier rule of this decode
has written and a later one reads, which the sequencer state tells. -/

namespace Sys2Proof.Machine

/-! ### What two cores at the same point of a decode have in common -/

/-- The inputs, and every register that START sets, agree; of the memories, the bytes within SRC_LEN and DST_CAP. No
host action is to come. -/
structure SameRegisters (s t : State) : Prop where
  pending_left : s.pending = []
  pending_right : t.pending = []
  srcPresent : s.srcPresent = t.srcPresent
  code : s.code = t.code
  srcLen : s.srcLen = t.srcLen
  dstCap : s.dstCap = t.dstCap
  result : s.result = t.result
  writePosReg : s.writePosReg = t.writePosReg
  faultAddr : s.faultAddr = t.faultAddr
  faultBitpos : s.faultBitpos = t.faultBitpos
  faultBlock : s.faultBlock = t.faultBlock
  leafRule : s.leafRule = t.leafRule
  matchFallback : s.matchFallback = t.matchFallback
  bitPosition : s.bitPosition = t.bitPosition
  bitBase : s.bitBase = t.bitBase
  writePos : s.writePos = t.writePos
  blockIndex : s.blockIndex = t.blockIndex
  seq : s.seq = t.seq
  runRemaining : s.runRemaining = t.runRemaining
  matchRemaining : s.matchRemaining = t.matchRemaining
  matchDistance : s.matchDistance = t.matchDistance
  src : ∀ a, a < s.srcLen.toNat → s.src.read a = t.src.read a
  dst : ∀ a, a < s.dstCap.toNat → s.dst.read a = t.dst.read a

/-- The tree agrees in its size and in its entries below `k`. -/
def SameTreeBelow (k : Nat) (s t : State) : Prop :=
  s.treeSize = t.treeSize ∧ ∀ i, i < k → treeAt s i = treeAt t i

/-- What every block reads: the container header, the whole tree, and where the block begins. -/
def SameBlocks (s t : State) : Prop :=
  s.ch = t.ch ∧ s.blockStart = t.blockStart ∧ SameTreeBelow (s.treeSize.toNat + 1) s t

theorem SameBlocks.ch {s t : State} (h : SameBlocks s t) : s.ch = t.ch := h.1

theorem SameBlocks.blockStart {s t : State} (h : SameBlocks s t) : s.blockStart = t.blockStart := h.2.1

theorem SameBlocks.tree {s t : State} (h : SameBlocks s t) : SameTreeBelow (s.treeSize.toNat + 1) s t := h.2.2

/-- What the decode has written when the sequencer is in `q` and can still read, START's own registers aside. -/
def SameWritten (q : Seq) (s t : State) : Prop :=
  match q with
  | .idle | .validate | .done | .error => True
  | .buildTree =>
    s.ch = t.ch ∧ s.buildIndex = t.buildIndex ∧
      (0 < s.buildIndex.toNat → SameTreeBelow s.buildIndex.toNat s t)
  | .blockHeader => SameBlocks s t
  | .storedCopy =>
    SameBlocks s t ∧ s.bh.uncompressedLength = t.bh.uncompressedLength ∧ s.storedIndex = t.storedIndex
  | .litCount | .matchCount => SameBlocks s t ∧ s.bh = t.bh
  | .litSymbol => SameBlocks s t ∧ s.bh = t.bh ∧ s.node = t.node
  | .matchItem | .matchCopy => SameBlocks s t ∧ s.bh = t.bh ∧ s.lenRead = t.lenRead
  | .finish => s.ch = t.ch

/-- The two cores are at the same point of one decode. -/
structure Alike (s t : State) : Prop extends SameRegisters s t where
  written : SameWritten s.seq s t

theorem SameWritten.at_block {n k : Half} {s t : State} (h : SameBlocks s t) :
    SameWritten (if n = k then .finish else .blockHeader) s t := by
  split
  · exact h.ch
  · exact h

/-! ### The same operation on two cores -/

theorem Res.bind_assoc {α β γ : Type} (r : Res α) (f : α → State → Res β) (g : β → State → Res γ) :
    (r.bind f).bind g = r.bind fun a s => (f a s).bind g := by
  cases r <;> rfl

/-- Both operations answer one value, in states that `R` relates, or both raise one failure. -/
inductive Paired {α : Type} (R : State → State → Prop) : Res α → Res α → Prop
  | ok (a : α) {s t : State} (h : R s t) : Paired R (.ok a s) (.ok a t)
  | raised (e : Failure) (info : Nat) {s t : State} (h : SameRegisters s t) :
      Paired R (raise e info s) (raise e info t)

/-- Both steps end, and in states alike. -/
def NextAlike (r r' : Result) : Prop := ∃ s t, r = .next s ∧ r' = .next t ∧ Alike s t

/-- The two states and no others. -/
def At (s t u v : State) : Prop := u = s ∧ v = t

/-- The two states with `bitPosition` moved to one position. -/
def Moved (s t u v : State) : Prop := ∃ p, u = { s with bitPosition := p } ∧ v = { t with bitPosition := p }

section
variable {s t : State}

/-- A failure record reads only what START's registers hold (60_exceptions.md R320). -/
theorem SameRegisters.alike_takeFailure (h : SameRegisters s t) (e : Failure) (info : Nat) :
    Alike (takeFailure e info s) (takeFailure e info t) where
  toSameRegisters := { h with
    writePosReg := h.writePos, faultAddr := rfl, faultBitpos := h.bitPosition,
    faultBlock := congrArg (BitVec.setWidth 32) h.blockIndex, code := rfl, seq := rfl }
  written := trivial

theorem SameRegisters.same_move (h : SameRegisters s t) (p : Word) :
    SameRegisters { s with bitPosition := p } { t with bitPosition := p } := { h with bitPosition := rfl }

/-- The header registers are none of START's own. -/
theorem SameRegisters.same_with_ch (h : SameRegisters s t) (ch ch' : ContainerHeader) :
    SameRegisters { s with ch := ch } { t with ch := ch' } := { h with }

theorem SameRegisters.same_with_bh (h : SameRegisters s t) (bh bh' : BlockHeader) :
    SameRegisters { s with bh := bh } { t with bh := bh' } := { h with }

theorem SameRegisters.alike {q : Seq} (h : SameRegisters s t) (hseq : s.seq = q) (hwritten : SameWritten q s t) :
    Alike s t := ⟨h, hseq ▸ hwritten⟩

theorem Alike.written_at {q : Seq} (h : Alike s t) (hseq : s.seq = q) : SameWritten q s t := hseq ▸ h.written

theorem Alike.alike_move (h : Alike s t) (p : Word) : Alike { s with bitPosition := p } { t with bitPosition := p } :=
  ⟨h.same_move p, h.written⟩

theorem Alike.nextAlike (h : Alike s t) : NextAlike (.next s) (.next t) := ⟨s, t, rfl, rfl, h⟩

theorem SameRegisters.nextAlike_takeFailure (h : SameRegisters s t) (e : Failure) (info : Nat) :
    NextAlike (.next (takeFailure e info s)) (.next (takeFailure e info t)) :=
  (h.alike_takeFailure e info).nextAlike

theorem Paired.bind {α β : Type} {R Q : State → State → Prop} {r r' : Res α} {k k' : α → State → Res β}
    (h : Paired R r r') (hk : ∀ a u v, R u v → Paired Q (k a u) (k' a v)) : Paired Q (r.bind k) (r'.bind k') := by
  cases h with
  | ok a h => exact hk a _ _ h
  | raised e info h => exact .raised e info h

/-- After operations that end in two known states. -/
theorem Paired.bind_at {α β : Type} {Q : State → State → Prop} {r r' : Res α} {k k' : α → State → Res β}
    {u v : State} (h : Paired (At u v) r r') (hk : ∀ a, Paired Q (k a u) (k' a v)) :
    Paired Q (r.bind k) (r'.bind k') := by
  refine h.bind ?_
  rintro a _ _ ⟨rfl, rfl⟩
  exact hk a

theorem Paired.toResult {α : Type} {r r' : Res α} (h : Paired Alike r r') : NextAlike r.toResult r'.toResult := by
  cases h with
  | ok a h => exact h.nextAlike
  | raised e info h => exact h.nextAlike_takeFailure e info

/-- A step reads one instruction on both cores, or its fetch raises on both. -/
theorem Paired.nextAlike_run {R : State → State → Prop} {r r' : Res Instr} (h : Paired R r r')
    (hexec : ∀ i u v, r = .ok i u → R u v → NextAlike (exec i u) (exec i v)) :
    NextAlike r.toFetched.run r'.toFetched.run := by
  cases h with
  | ok i h => exact hexec i _ _ rfl h
  | raised e info h => exact h.nextAlike_takeFailure e info

theorem Paired.raised_of_eq {α : Type} {R : State → State → Prop} (h : SameRegisters s t) (e : Failure)
    {info info' : Nat} (hinfo : info = info') : Paired (α := α) R (raise e info s) (raise e info' t) :=
  hinfo ▸ .raised e info h

/-- A rule that branches takes the same branch on both cores. -/
theorem Paired.ite {α : Type} {R : State → State → Prop} {c c' : Prop} [Decidable c] [Decidable c'] (hc : c ↔ c')
    {a b a' b' : Res α} (hthen : c → Paired R a a') (helse : ¬ c → Paired R b b') :
    Paired R (if c then a else b) (if c' then a' else b') := by
  by_cases h : c
  · rw [if_pos h, if_pos (hc.mp h)]
    exact hthen h
  · rw [if_neg h, if_neg (mt hc.mpr h)]
    exact helse h

/-! ### Reads and writes of the memories -/

theorem SameRegisters.paired_srcRead (h : SameRegisters s t) {a a' : Nat} (ha : a = a') :
    Paired (At s t) (srcRead a s) (srcRead a' t) := by
  subst ha
  refine .ite (by rw [h.srcLen]) (fun _ => .raised _ _ h) fun hlt => ?_
  rw [h.src a (Nat.lt_of_not_le hlt)]
  exact .ok _ ⟨rfl, rfl⟩

theorem SameRegisters.paired_srcRead16 (h : SameRegisters s t) {a a' : Nat} (ha : a = a') :
    Paired (At s t) (srcRead16 a s) (srcRead16 a' t) :=
  (h.paired_srcRead ha).bind_at fun _ => (h.paired_srcRead (congrArg (· + 1) ha)).bind_at fun _ => .ok _ ⟨rfl, rfl⟩

theorem SameRegisters.paired_srcRead32 (h : SameRegisters s t) (a : Nat) :
    Paired (At s t) (srcRead32 a s) (srcRead32 a t) :=
  (h.paired_srcRead rfl).bind_at fun _ => (h.paired_srcRead rfl).bind_at fun _ =>
    (h.paired_srcRead rfl).bind_at fun _ => (h.paired_srcRead rfl).bind_at fun _ => .ok _ ⟨rfl, rfl⟩

theorem SameRegisters.paired_dstRead (h : SameRegisters s t) {a a' : Nat} (ha : a = a') :
    Paired (At s t) (dstRead a s) (dstRead a' t) := by
  subst ha
  refine .ite (by rw [h.dstCap]) (fun _ => .raised _ _ h) fun hlt => ?_
  rw [h.dst a (Nat.lt_of_not_le hlt)]
  exact .ok _ ⟨rfl, rfl⟩

/-- `s` with `v` written at `writePos`, and `writePos` past it (10_state.md R43). -/
def putByte (v : Byte) (s : State) : State :=
  { s with dst := s.dst.write s.writePos.toNat v, writePos := s.writePos + 1 }

theorem appendByte_eq (v : Byte) (s : State) : appendByte v s =
    if s.dstCap.toNat ≤ s.writePos.toNat then raise .destOverrun s.writePos.toNat s else .ok () (putByte v s) := by
  rw [appendByte, dstWrite, apply_ite (Res.bind · _)]
  rfl

/-- The one byte written is the same, and so is every other. -/
theorem SameRegisters.same_putByte (h : SameRegisters s t) (v : Byte) : SameRegisters (putByte v s) (putByte v t) :=
  { h with
    writePos := congrArg (· + 1) h.writePos
    dst := fun a ha => by
      simp only [putByte, Memory.read_write, h.writePos]
      split
      · rfl
      · exact h.dst a ha }

theorem SameRegisters.paired_appendByte (h : SameRegisters s t) (v : Byte) :
    Paired (At (putByte v s) (putByte v t)) (appendByte v s) (appendByte v t) := by
  rw [appendByte_eq, appendByte_eq]
  exact .ite (by rw [h.dstCap, h.writePos]) (fun _ => .raised_of_eq h _ (by rw [h.writePos]))
    fun _ => .ok _ ⟨rfl, rfl⟩

/-! ### Reading a code word -/

theorem SameRegisters.paired_readBits (h : SameRegisters s t) (n : Nat) :
    Paired (Moved s t) (readBits n s) (readBits n t) := by
  have hadvance : Moved s t (advance n s) (advance n t) := ⟨_, rfl, by rw [advance, h.bitPosition]⟩
  have hword : s.bitBase.toNat + 2 * (s.bitPosition.toNat / 16) =
      t.bitBase.toNat + 2 * (t.bitPosition.toNat / 16) := by
    rw [h.bitBase, h.bitPosition]
  refine .ite .rfl (fun _ => .raised _ _ h) fun _ => .ite .rfl (fun _ => .ok _ ⟨s.bitPosition, rfl, ?_⟩) fun _ =>
    .ite (by rw [h.bitPosition]) (fun _ => .raised _ _ h) fun _ => ?_
  · rw [h.bitPosition]
  refine (h.paired_srcRead16 hword).bind_at fun w0 => .ite (by rw [h.bitPosition]) (fun _ => ?_) fun _ =>
    (h.paired_srcRead16 (congrArg (· + 2) hword)).bind_at fun w1 => ?_
  all_goals
    rw [h.bitPosition]
    exact .ok _ hadvance

theorem SameRegisters.paired_fetchTree (h : SameRegisters s t) (c : CodeTree) :
    Paired (Moved s t) (fetchTree c s) (fetchTree c t) := by
  induction c generalizing s t with
  | instr i => exact .ok i ⟨s.bitPosition, rfl, by rw [h.bitPosition]⟩
  | field w mk =>
    unfold fetchTree
    split
    · exact .ok _ ⟨s.bitPosition, rfl, by rw [h.bitPosition]⟩
    · exact (h.paired_readBits w).bind fun v _ _ hmoved => .ok _ hmoved
  | read n k ih =>
    refine (h.paired_readBits n).bind ?_
    rintro v _ _ ⟨p, rfl, rfl⟩
    exact ih v.toNat (h.same_move p)

theorem SameRegisters.nextAlike_withField (h : SameRegisters s t) {w w' : Byte} (hw : w = w') (v : Half)
    {use use' : Word → Result} (huse : ∀ x, NextAlike (use x) (use' x)) :
    NextAlike (withField w v s use) (withField w' v t use') := by
  subst hw
  rcases withField_cases w v s use with ⟨hwide, e⟩ | ⟨hlegal, e⟩
  · rw [e, withField_wide hwide]
    exact h.nextAlike_takeFailure _ _
  · have e' : withField w v t use' = use' (v.setWidth 32) := if_neg (Nat.not_lt.mpr hlegal)
    rw [e, e']
    exact huse _

end

end Sys2Proof.Machine

/-! ## The same step, by what the sequencer does

For each sequencer state, what it reads and may still read (`SameWritten`) decides the step
and the next such state. -/

namespace Sys2Proof.Machine

section
variable {s t : State}

/-! ### The container and the tree -/

theorem SameRegisters.paired_fetchContainer (h : SameRegisters s t) :
    Paired (fun u v => ∃ w, u = { s with ch := { s.ch with signature := w } } ∧
      v = { t with ch := { t.ch with signature := w } }) (fetchContainer s) (fetchContainer t) := by
  refine .ite (by rw [h.srcPresent]) (fun _ => (h.paired_srcRead32 0).bind_at fun w => ?_) fun _ => .raised _ _ h
  cases decodeWord .container w with
  | ok i => exact .ok i ⟨w, rfl, rfl⟩
  | error e => exact .raised _ _ (h.same_with_ch _ _)

/-- The header is read in the order of its fields (44_container.md R272), so a byte that is missing on one core is
missing on the other, and with none missing every field but the signature is new. -/
theorem SameRegisters.paired_loadContainerHeader (h : SameRegisters s t) (hsig : s.ch.signature = t.ch.signature) :
    Paired (fun u v => ∃ ch, u = { s with ch := ch } ∧ v = { t with ch := ch })
      (loadContainerHeader s) (loadContainerHeader t) := by
  simp only [loadContainerHeader, Res.seqAll_cons, Res.seqAll_nil, Res.bind_assoc, Res.bind_ok]
  refine (h.paired_srcRead32 4).bind_at fun ulen => ((h.same_with_ch _ _).paired_srcRead32 8).bind_at fun clen =>
    ((h.same_with_ch _ _).paired_srcRead16 rfl).bind_at fun count =>
    ((h.same_with_ch _ _).paired_srcRead rfl).bind_at fun reserved =>
    ((h.same_with_ch _ _).paired_srcRead rfl).bind_at fun len => .ok _ ⟨_, rfl, ?_⟩
  simp only [hsig]

theorem SameRegisters.paired_checkCapacity (h : SameRegisters s t) (hch : s.ch = t.ch) :
    Paired Alike (checkCapacity s) (checkCapacity t) :=
  .ite (by rw [h.dstCap, hch]) (fun _ => .raised _ _ h) fun _ =>
    .ok _ ⟨{ h with seq := rfl }, hch, rfl, fun hpos => absurd hpos (Nat.lt_irrefl 0)⟩

/-- The container is checked and loaded alike, the signature having been read. -/
theorem SameRegisters.nextAlike_execContainer (h : SameRegisters s t) (hseq : s.seq = .validate)
    (hsig : s.ch.signature = t.ch.signature) : NextAlike (execContainer s) (execContainer t) := by
  have hseq' : t.seq = .validate := h.seq ▸ hseq
  by_cases hmagic : s.ch.signature = magic
  · rw [execContainer_of_magic hseq hmagic, execContainer_of_magic hseq' (hsig ▸ hmagic)]
    refine ((h.paired_loadContainerHeader hsig).bind ?_).toResult
    rintro _ _ _ ⟨ch, rfl, rfl⟩
    exact (h.same_with_ch ch ch).paired_checkCapacity rfl
  · rw [execContainer_of_ne_magic hseq hmagic, execContainer_of_ne_magic hseq' (hsig ▸ hmagic)]
    exact h.nextAlike_takeFailure _ _

theorem SameRegisters.nextAlike_run_container (h : SameRegisters s t) (hseq : s.seq = .validate) :
    NextAlike (fetchContainer s).toFetched.run (fetchContainer t).toFetched.run := by
  refine h.paired_fetchContainer.nextAlike_run ?_
  rintro i _ _ hok ⟨w, rfl, rfl⟩
  rcases fetchContainer_cases s with ⟨ch, e⟩ | ⟨e, n, ch, e'⟩
  · obtain ⟨rfl, _⟩ := Res.ok.inj (hok.symm.trans e)
    exact (h.same_with_ch _ _).nextAlike_execContainer hseq rfl
  · cases hok.symm.trans e'

theorem Alike.alike_beginTree (h : Alike s t) (hseq : s.seq = .buildTree) : Alike (beginTree s) (beginTree t) := by
  obtain ⟨hch, _, _⟩ := h.written_at hseq
  have hroot (i : Nat) (hi : i < 1) : treeAt (beginTree s) i = treeAt (beginTree t) i := by
    obtain rfl := Nat.lt_one_iff.mp hi
    exact (treeAt_setTree 0 0 rootNode s).trans (treeAt_setTree 0 0 rootNode t).symm
  refine ⟨{ h.toSameRegisters with bitBase := ?_, bitPosition := rfl }, ?_⟩
  · rw [beginTree_bitBase, beginTree_bitBase, hch]
  · rw [beginTree_seq, hseq]
    refine ⟨hch, rfl, fun _ => ⟨?_, hroot⟩⟩
    rw [beginTree_treeSize, beginTree_treeSize, hch]

/-- A node built alike extends the part of the tree that agrees. -/
theorem Alike.paired_buildNode (h : Alike s t) (hseq : s.seq = .buildTree) (hpos : 0 < s.buildIndex.toNat)
    (hlt : s.buildIndex.toNat < 511) (flag : Bool) : Paired Alike (buildNode flag s) (buildNode flag t) := by
  obtain ⟨hch, hindex, htree⟩ := h.written_at hseq
  obtain ⟨hsize, hbelow⟩ := htree hpos
  refine (h.paired_srcRead (by rw [hindex])).bind_at fun v =>
    .ok _ (SameRegisters.alike { h.toSameRegisters with } hseq ?_)
  refine ⟨hch, congrArg (· + 1) hindex, fun _ => ⟨hsize, fun i hi => ?_⟩⟩
  have hi : i ≤ s.buildIndex.toNat := by
    have : i < (s.buildIndex + 1).toNat := hi
    bv_omega
  refine (treeAt_setTree _ i _ s).trans (.trans ?_ (treeAt_setTree _ i _ t).symm)
  rw [← hindex, ← hch, ← h.leafRule]
  split
  · rfl
  · exact hbelow i (by omega)

theorem Alike.alike_endTree (h : Alike s t) (hseq : s.seq = .buildTree) (hlt : s.treeSize.toNat < s.buildIndex.toNat) :
    Alike (endTree s) (endTree t) := by
  obtain ⟨hch, _, htree⟩ := h.written_at hseq
  obtain ⟨hsize, hbelow⟩ := htree (by omega)
  refine ⟨{ h.toSameRegisters with blockIndex := rfl, seq := ?_ }, .at_block ⟨hch, ?_, hsize, fun i hi => ?_⟩⟩
  · rw [endTree_seq, endTree_seq, hch]
  · rw [endTree_blockStart, endTree_blockStart, hch]
  · exact hbelow i (by rw [endTree_treeSize] at hi; omega)

/-! ### The blocks -/

theorem SameRegisters.alike_nextBlock (h : SameRegisters s t) (hblocks : SameBlocks s t) :
    Alike (nextBlock s) (nextBlock t) := by
  refine ⟨{ h with blockIndex := congrArg (· + 1) h.blockIndex, seq := ?_ }, .at_block hblocks⟩
  rw [nextBlock_seq, nextBlock_seq, h.blockIndex, hblocks.ch]

theorem SameRegisters.alike_endCompressedBlock (h : SameRegisters s t) (hblocks : SameBlocks s t)
    (hbh : s.bh = t.bh) : Alike (endCompressedBlock s) (endCompressedBlock t) :=
  SameRegisters.alike_nextBlock { h with } ⟨hblocks.ch, by simp only [hblocks.blockStart, hbh], hblocks.tree⟩

theorem SameRegisters.alike_endStoredBlock (h : SameRegisters s t) (hblocks : SameBlocks s t)
    (hulen : s.bh.uncompressedLength = t.bh.uncompressedLength) : Alike (endStoredBlock s) (endStoredBlock t) :=
  SameRegisters.alike_nextBlock { h with } ⟨hblocks.ch, by simp only [hblocks.blockStart, hulen], hblocks.tree⟩

theorem tablesFrom_congr {byte byte' : Nat → Byte} (hbyte : ∀ k, k < 24 → byte k = byte' k) {bh bh' : BlockHeader}
    (hulen : bh.uncompressedLength = bh'.uncompressedLength) (hclen : bh.compressedLength = bh'.compressedLength) :
    tablesFrom byte bh = tablesFrom byte' bh' := by
  simp [tablesFrom, hbyte, hulen, hclen]

/-- The tables are loaded alike, whatever tables `bh` held before. -/
theorem SameRegisters.paired_loadTables (h : SameRegisters s t) (hstart : s.blockStart = t.blockStart)
    (hheader : s.blockStart.toNat + 4 ≤ s.srcLen.toNat) (hulen : s.bh.uncompressedLength = t.bh.uncompressedLength)
    (hclen : s.bh.compressedLength = t.bh.compressedLength) :
    Paired (fun u v => ∃ bh, u = { s with bh := bh } ∧ v = { t with bh := bh }) (loadTables s) (loadTables t) := by
  by_cases hlen : s.blockStart.toNat + 23 < s.srcLen.toNat
  · rw [loadTables_ok hlen, loadTables_ok (by rwa [h.srcLen, hstart] at hlen)]
    refine .ok _ ⟨_, rfl, ?_⟩
    rw [tablesFrom_congr (fun k hk => ?_) hulen hclen]
    rw [← hstart]
    exact h.src _ (by omega)
  · have hlen : s.srcLen.toNat < s.blockStart.toNat + 24 := by omega
    obtain ⟨bh, e⟩ := loadTables_overrun hheader hlen
    obtain ⟨bh', e'⟩ := loadTables_overrun (s := t) (by rwa [h.srcLen, hstart] at hheader)
      (by rwa [h.srcLen, hstart] at hlen)
    rw [e, e']
    exact .raised_of_eq (h.same_with_bh bh bh') _ (by rw [h.srcLen])

theorem SameRegisters.same_setLengths (h : SameRegisters s t) (u c : Half) :
    SameRegisters (setLengths u c s) (setLengths u c t) := { h with }

theorem SameRegisters.paired_fetchBlock (h : SameRegisters s t) (hstart : s.blockStart = t.blockStart) :
    Paired (fun u v => ∃ ulen clen, u = setLengths ulen clen s ∧ v = setLengths ulen clen t)
      (fetchBlock s) (fetchBlock t) := by
  refine (h.paired_srcRead16 (by rw [hstart])).bind_at fun ulen => ?_
  exact ((h.same_with_bh _ _).paired_srcRead16 (congrArg (BitVec.toNat · + 2) hstart)).bind_at fun clen =>
    .ok _ ⟨ulen, clen, rfl, rfl⟩

/-- The two kinds of block begin alike. -/
theorem SameRegisters.nextAlike_execBlock (h : SameRegisters s t) (hblocks : SameBlocks s t)
    (hseq : s.seq = .blockHeader) (hheader : s.blockStart.toNat + 4 ≤ s.srcLen.toNat) (w : Word) :
    NextAlike (exec (decodeBlockWord w) s) (exec (decodeBlockWord w) t) := by
  have hseq' : t.seq = .blockHeader := h.seq ▸ hseq
  unfold decodeBlockWord
  split
  · have stored (u : Half) {r : State} (hr : r.seq = .blockHeader) : exec (.blockStored u) r =
        .next { setLengths u 0 r with storedIndex := 0, seq := .storedCopy } :=
      inSequence_of (decide_eq_true hr) _ _
    rw [stored _ hseq, stored _ hseq']
    exact Alike.nextAlike ⟨{ h with seq := rfl }, hblocks, rfl, rfl⟩
  · have compressed (u c : Half) {r : State} (hr : r.seq = .blockHeader) : exec (.blockCompressed u c) r =
        ((loadTables (setLengths u c r)).bind fun _ r => .ok () (enterBitstream r)).toResult :=
      inSequence_of (decide_eq_true hr) _ _
    rw [compressed _ _ hseq, compressed _ _ hseq']
    have htables (u c : Half) := (h.same_setLengths u c).paired_loadTables hblocks.blockStart hheader rfl rfl
    refine ((htables _ _).bind ?_).toResult
    rintro _ _ _ ⟨bh, rfl, rfl⟩
    refine .ok _ ⟨{ h with bitBase := ?_, bitPosition := rfl, seq := rfl }, hblocks, rfl⟩
    exact congrArg (fun o => BitVec.ofNat 32 (BitVec.toNat o + 24)) hblocks.blockStart

theorem Alike.nextAlike_run_block (h : Alike s t) (hseq : s.seq = .blockHeader) :
    NextAlike (fetchBlock s).toFetched.run (fetchBlock t).toFetched.run := by
  have hblocks : SameBlocks s t := h.written_at hseq
  refine (h.paired_fetchBlock hblocks.blockStart).nextAlike_run ?_
  rintro i _ _ hok ⟨ulen, clen, rfl, rfl⟩
  rcases fetchBlock_cases s with ⟨hheader, w, bh, e⟩ | ⟨e, n, bh, e'⟩
  · obtain ⟨rfl, _⟩ := Res.ok.inj (hok.symm.trans e)
    exact (h.same_setLengths ulen clen).nextAlike_execBlock hblocks hseq hheader w
  · cases hok.symm.trans e'

theorem Alike.paired_stepStored (h : Alike s t) (hseq : s.seq = .storedCopy) :
    Paired Alike (stepStored s) (stepStored t) := by
  obtain ⟨hblocks, hulen, hindex⟩ := h.written_at hseq
  refine .ite (by rw [hindex, hulen]) (fun _ => ?_) fun _ => .ok _ (h.alike_endStoredBlock hblocks hulen)
  refine (h.paired_srcRead (by rw [hindex, hblocks.blockStart])).bind_at fun y =>
    (h.paired_appendByte y).bind_at fun _ => .ok _ (SameRegisters.alike { h.same_putByte y with } hseq ?_)
  exact ⟨hblocks, hulen, congrArg (· + 1) hindex⟩

/-! ### The bitstream -/

theorem nextAlike_inSequence {m : String} {here here' : Bool} {r r' : Result} (hhere : here = true)
    (hhere' : here' = true) (h : NextAlike r r') : NextAlike (inSequence m here r) (inSequence m here' r') := by
  rwa [inSequence_of hhere, inSequence_of hhere']

section
variable (h : SameRegisters s t) (hblocks : SameBlocks s t) (hbh : s.bh = t.bh)
include h hblocks hbh

/-- The count ends the block, or begins a run of literals or of matches, on both cores. -/
theorem SameRegisters.alike_loadRunCount (r : Word) : Alike (loadRunCount r s) (loadRunCount r t) := by
  unfold loadRunCount
  rw [← h.seq]
  split
  · exact h.alike_endCompressedBlock hblocks hbh
  split
  · exact ⟨{ h with runRemaining := rfl, seq := rfl }, hblocks, hbh, rfl⟩
  · exact ⟨{ h with runRemaining := rfl, seq := rfl }, hblocks, hbh, rfl⟩

theorem SameRegisters.nextAlike_exec_lr (hdue : DueAt s .lr) {i : Instr} (hi : i.format = .lr) :
    NextAlike (exec i s) (exec i t) := by
  have hhere : countSeq s = true := decide_eq_true hdue
  have hhere' : countSeq t = true := by rwa [countSeq, ← h.seq]
  have hload (r : Word) : NextAlike (.next (loadRunCount r s)) (.next (loadRunCount r t)) :=
    (h.alike_loadRunCount hblocks hbh r).nextAlike
  cases i with
  | lrBase0 | lrBase1 =>
    refine nextAlike_inSequence hhere hhere' ?_
    rw [← hbh]
    exact hload _
  | lrExt1 v | lrExt2 v | lrExt3 v =>
    exact nextAlike_inSequence hhere hhere' (h.nextAlike_withField (by rw [hbh]) v hload)
  | _ => nomatch hi

theorem SameRegisters.nextAlike_exec_mc (hdue : DueAt s .mc) (hdue' : DueAt t .mc) {i : Instr} (hi : i.format = .mc) :
    NextAlike (exec i s) (exec i t) := by
  have hhere : lengthSeq s = true := decide_eq_true hdue
  have hhere' : lengthSeq t = true := decide_eq_true hdue'
  obtain ⟨hseq, _⟩ := hdue
  have hload (len : Word) : NextAlike (.next (loadLength len s)) (.next (loadLength len t)) :=
    Alike.nextAlike (SameRegisters.alike { h with } hseq ⟨hblocks, hbh, rfl⟩)
  have hfallback (k : Fin 4) : fallback s k = fallback t k := by rw [fallback_eq, fallback_eq, h.matchFallback, hbh]
  cases i with
  | mcBase0 =>
    refine nextAlike_inSequence hhere hhere' ?_
    rw [← hbh]
    exact hload _
  | mcFb1 | mcFb2 | mcFb3 =>
    refine nextAlike_inSequence hhere hhere' ?_
    rw [← hfallback]
    exact hload _
  | mcExt1 v | mcExt2 v | mcExt3 v =>
    exact nextAlike_inSequence hhere hhere' (h.nextAlike_withField (by rw [hbh]) v hload)
  | _ => nomatch hi

theorem SameRegisters.nextAlike_exec_off (hseq : s.seq = .matchItem) {len : Word} (hlen : s.lenRead = some len)
    (hlen' : t.lenRead = some len) {i : Instr} (hi : i.format = .off) : NextAlike (exec i s) (exec i t) := by
  have hload (dist : Word) : NextAlike (.next (loadMatch len dist s)) (.next (loadMatch len dist t)) :=
    Alike.nextAlike ⟨{ h with matchRemaining := rfl, matchDistance := rfl, seq := rfl }, hblocks, hbh, rfl⟩
  cases i with
  | of0 d | of1 d | of2 d | of3 d =>
    simp only [exec, execOf0, execOf1, execOf2, execOf3, execOffset, hlen, hlen']
    exact nextAlike_inSequence (decide_eq_true hseq) (decide_eq_true (h.seq ▸ hseq))
      (h.nextAlike_withField (by rw [hbh]) d hload)
  | _ => nomatch hi

/-- The traversal moves to one child on both cores, or raises past the tree on both. -/
theorem SameRegisters.nextAlike_moveTo (hseq : s.seq = .litSymbol) (n : TreeIndex) :
    NextAlike (moveTo (some n) s) (moveTo (some n) t) := by
  obtain ⟨hsize, _⟩ := hblocks.tree
  by_cases hn : n.toNat ≤ s.treeSize.toNat
  · rw [moveTo_within hn, moveTo_within (hsize ▸ hn)]
    exact Alike.nextAlike (SameRegisters.alike { h with } hseq ⟨hblocks, hbh, rfl⟩)
  · have hn : s.treeSize.toNat < n.toNat := Nat.lt_of_not_le hn
    rw [moveTo_past hn, moveTo_past (hsize ▸ hn)]
    exact h.nextAlike_takeFailure _ _

theorem SameRegisters.nextAlike_exec_huf (hseq : s.seq = .litSymbol)
    (hnode : treeAt s s.node.toNat = treeAt t t.node.toNat) (hinternal : (treeAt s s.node.toNat).isLeaf = false)
    (hok : nodeOk (treeAt s s.node.toNat) = true) {i : Instr} (hi : i.format = .huf) :
    NextAlike (exec i s) (exec i t) := by
  obtain ⟨hzero, hone⟩ := exec_huf_at_internal hseq hinternal hok
  obtain ⟨hzero', hone'⟩ := exec_huf_at_internal (h.seq ▸ hseq) (hnode ▸ hinternal) (hnode ▸ hok)
  have hmove := h.nextAlike_moveTo hblocks hbh hseq
  cases i with
  | huf0 =>
    rw [hzero, hzero', ← hnode]
    exact hmove _
  | huf1 =>
    rw [hone, hone', ← hnode]
    exact hmove _
  | _ => nomatch hi

/-- One literal is written and counted on both cores, or raises on both. -/
theorem SameRegisters.paired_emitLiteral (hnode : treeAt s s.node.toNat = treeAt t t.node.toNat) :
    Paired Alike (emitLiteral s) (emitLiteral t) := by
  unfold emitLiteral
  rw [← hnode]
  refine (h.paired_appendByte _).bind_at fun _ => .ok _ ⟨{ h.same_putByte _ with
    runRemaining := congrArg (· - 1) h.runRemaining, seq := ?_ }, ?_⟩
  · exact congrArg (fun r : Word => if r - 1 = 0 then Seq.matchCount else .litSymbol) h.runRemaining
  · show SameWritten (if _ then _ else _) _ _
    split
    · exact ⟨hblocks, hbh⟩
    · exact ⟨hblocks, hbh, rfl⟩

end

theorem Alike.alike_endMatch (h : Alike s t) (hseq : s.seq = .matchCopy) : Alike (endMatch s) (endMatch t) := by
  obtain ⟨hblocks, hbh, hlen⟩ := h.written_at hseq
  refine ⟨{ h.toSameRegisters with runRemaining := congrArg (· - 1) h.runRemaining, seq := ?_ }, ?_⟩
  · rw [endMatch_seq, endMatch_seq, h.runRemaining]
  · rw [endMatch_seq]
    split
    · exact ⟨hblocks, hbh⟩
    · exact ⟨hblocks, hbh, hlen⟩

theorem Alike.paired_stepCopy (h : Alike s t) (hseq : s.seq = .matchCopy) :
    Paired Alike (stepCopy s) (stepCopy t) := by
  refine .ite (by rw [h.matchRemaining]) (fun _ => .ok _ (h.alike_endMatch hseq)) fun _ =>
    .ite (by rw [h.writePos, h.matchDistance])
      (fun _ => .raised_of_eq h.toSameRegisters _ (by rw [h.matchDistance])) fun _ => ?_
  refine (h.paired_dstRead (by rw [h.writePos, h.matchDistance])).bind_at fun y =>
    (h.paired_appendByte y).bind_at fun _ => .ok _ ?_
  exact SameRegisters.alike { h.same_putByte y with matchRemaining := congrArg (· - 1) h.matchRemaining } hseq
    (h.written_at hseq)

/-! ### Steps and runs -/

theorem Alike.alike_finishDecode (h : Alike s t) (hseq : s.seq = .finish) :
    Alike (finishDecode s) (finishDecode t) := by
  have hch : s.ch = t.ch := h.written_at hseq
  exact ⟨{ h.toSameRegisters with
    result := congrArg ContainerHeader.uncompressedLength hch, writePosReg := h.writePos, code := rfl, seq := rfl },
    trivial⟩

/-- The step at a code word, when every instruction of its format does the same to both cores. -/
theorem SameRegisters.nextAlike_run_code (h : SameRegisters s t) {f : Format} {c : CodeTree} (hdue : DueAt s f)
    (hdue' : DueAt t f) (hcode : codeOfFormat s.bh f = some c) (hcode' : codeOfFormat t.bh f = some c)
    (hexec : ∀ i p, i.format = f →
      NextAlike (exec i { s with bitPosition := p }) (exec i { t with bitPosition := p })) :
    NextAlike (fetchEngine s).run (fetchEngine t).run := by
  rw [fetchEngine_of_dueAt hdue hcode, fetchEngine_of_dueAt hdue' hcode']
  refine (h.paired_fetchTree c).nextAlike_run ?_
  rintro i _ _ hok ⟨p, rfl, rfl⟩
  exact hexec i p (fetchTree_all (CodeTree.all_codeOfFormat hcode) hok)

theorem Alike.nextAlike_run_buildTree (h : Alike s t) (hs : InvTree s) (hseq : s.seq = .buildTree) :
    NextAlike (fetchEngine s).run (fetchEngine t).run := by
  have hseq' : t.seq = .buildTree := h.seq ▸ hseq
  obtain ⟨_, hindex, htree⟩ := h.written_at hseq
  by_cases hzero : s.buildIndex = 0
  · simp only [fetchEngine, hseq, hseq', if_pos hzero, if_pos (hindex ▸ hzero)]
    exact (h.alike_beginTree hseq).nextAlike
  have hpos : 0 < s.buildIndex.toNat := by bv_omega
  obtain ⟨hsize, _⟩ := htree hpos
  obtain ⟨_, hlen, _⟩ := hs.at_buildTree hseq hpos
  by_cases hle : s.buildIndex.toNat ≤ s.treeSize.toNat
  · have hdue : DueAt s .tf := ⟨hseq, hpos, hle⟩
    have hdue' : DueAt t .tf := ⟨hseq', hindex ▸ hpos, hindex ▸ hsize ▸ hle⟩
    refine h.nextAlike_run_code hdue hdue' rfl rfl fun i p hi => ?_
    have hbuild (flag : Bool) := (h.alike_move p).paired_buildNode hseq hpos (by simp only; omega) flag
    cases i with
    | tf0 | tf1 => exact nextAlike_inSequence (decide_eq_true hdue) (decide_eq_true hdue') (hbuild _).toResult
    | _ => nomatch hi
  · simp only [fetchEngine, hseq, hseq', ← hindex, ← hsize, if_neg hzero, if_neg hle]
    exact (h.alike_endTree hseq (Nat.lt_of_not_le hle)).nextAlike

theorem Alike.nextAlike_run_count (h : Alike s t) (hdue : DueAt s .lr) :
    NextAlike (fetchEngine s).run (fetchEngine t).run := by
  have hdue' : DueAt t .lr := by rwa [DueAt, ← h.seq]
  have hwritten : SameBlocks s t ∧ s.bh = t.bh := by
    rcases hdue with hseq | hseq
    · exact h.written_at hseq
    · exact h.written_at hseq
  obtain ⟨hblocks, hbh⟩ := hwritten
  exact h.nextAlike_run_code hdue hdue' rfl (by rw [hbh]; rfl) fun i p =>
    (h.same_move p).nextAlike_exec_lr hblocks hbh hdue

theorem Alike.nextAlike_run_litSymbol (h : Alike s t) (hs : InvTree s) (hseq : s.seq = .litSymbol) :
    NextAlike (fetchEngine s).run (fetchEngine t).run := by
  have hseq' : t.seq = .litSymbol := h.seq ▸ hseq
  obtain ⟨hblocks, hbh, hindex⟩ := h.written_at hseq
  obtain ⟨_, htree⟩ := hblocks.tree
  obtain ⟨_, _, hokay⟩ := hs.at_block (by rw [hseq]; rfl)
  obtain ⟨_, _, hwithin⟩ := hs
  have hlt : s.node.toNat < s.treeSize.toNat + 1 := Nat.lt_succ_of_le (hwithin hseq)
  have hnode : treeAt s s.node.toNat = treeAt t t.node.toNat := hindex ▸ htree _ hlt
  cases hleaf : (treeAt s s.node.toNat).isLeaf with
  | true =>
    have hleaf' := hnode ▸ hleaf
    simp only [fetchEngine, hseq, hseq', if_pos hleaf, if_pos hleaf']
    exact (h.paired_emitLiteral hblocks hbh hnode).toResult
  | false =>
    exact h.nextAlike_run_code (f := .huf) ⟨hseq, hleaf⟩ ⟨hseq', hnode ▸ hleaf⟩ rfl rfl fun i p =>
      (h.same_move p).nextAlike_exec_huf hblocks hbh hseq hnode hleaf (hokay _ hlt)

theorem Alike.nextAlike_run_matchItem (h : Alike s t) (hseq : s.seq = .matchItem) :
    NextAlike (fetchEngine s).run (fetchEngine t).run := by
  have hseq' : t.seq = .matchItem := h.seq ▸ hseq
  obtain ⟨hblocks, hbh, hread⟩ := h.written_at hseq
  cases hlen : s.lenRead with
  | none =>
    have hlen' : t.lenRead = none := hread ▸ hlen
    exact h.nextAlike_run_code (f := .mc) ⟨hseq, hlen⟩ ⟨hseq', hlen'⟩ rfl (by rw [hbh]; rfl) fun i p =>
      (h.same_move p).nextAlike_exec_mc hblocks hbh ⟨hseq, hlen⟩ ⟨hseq', hlen'⟩
  | some len =>
    have hlen' : t.lenRead = some len := hread ▸ hlen
    exact h.nextAlike_run_code (f := .off) ⟨hseq, len, hlen⟩ ⟨hseq', len, hlen'⟩ rfl (by rw [hbh]; rfl)
      fun i p => (h.same_move p).nextAlike_exec_off hblocks hbh hseq hlen hlen'

/-- Two cores at one point of a decode take the same step, and it stops neither. -/
theorem Alike.nextAlike_step (h : Alike s t) (hs : InvTree s) : NextAlike (step s) (step t) := by
  have hseq' (q : Seq) (hseq : s.seq = q) : t.seq = q := h.seq ▸ hseq
  rw [step_of_pending_nil h.pending_left, step_of_pending_nil h.pending_right]
  cases hseq : s.seq with
  | buildTree => exact h.nextAlike_run_buildTree hs hseq
  | litCount => exact h.nextAlike_run_count (.inl hseq)
  | matchCount => exact h.nextAlike_run_count (.inr hseq)
  | litSymbol => exact h.nextAlike_run_litSymbol hs hseq
  | matchItem => exact h.nextAlike_run_matchItem hseq
  | idle | done | error =>
    simp only [fetchEngine, hseq, hseq' _ hseq]
    exact h.nextAlike
  | validate =>
    simp only [fetchEngine, hseq, hseq' _ hseq]
    exact h.nextAlike_run_container hseq
  | blockHeader =>
    simp only [fetchEngine, hseq, hseq' _ hseq]
    exact h.nextAlike_run_block hseq
  | storedCopy =>
    simp only [fetchEngine, hseq, hseq' _ hseq]
    exact (h.paired_stepStored hseq).toResult
  | matchCopy =>
    simp only [fetchEngine, hseq, hseq' _ hseq]
    exact (h.paired_stepCopy hseq).toResult
  | finish =>
    simp only [fetchEngine, hseq, hseq' _ hseq]
    exact (h.alike_finishDecode hseq).nextAlike

/-- However many steps are taken, the two cores stay at one point of the decode. -/
theorem Alike.alike_run (n : Nat) (h : Alike s t) (hs : InvTree s) :
    ∃ s' t', Host.Core.run core n s = .next s' ∧ Host.Core.run core n t = .next t' ∧ Alike s' t' := by
  induction n generalizing s t with
  | zero => exact ⟨s, t, rfl, rfl, h⟩
  | succ n ih =>
    obtain ⟨u, v, hu, hv, huv⟩ := h.nextAlike_step hs
    rw [run_of_step hu, run_of_step hv]
    exact ih huv (hs.engineMove (engineMove_of_step h.pending_left hu))

theorem Alike.sameView (h : Alike s t) : sameView s t := by
  refine ⟨?_, h.result, h.writePosReg, h.faultAddr, h.faultBitpos, h.faultBlock, h.dst⟩
  rw [statusWord, statusWord, h.code, h.seq]

/-- START makes two cores with one launch alike: what else they held is not read before it is written. -/
theorem alike_startDecode (h : sameLaunch s t) (p : Bool) : Alike (startDecode p s) (startDecode p t) := by
  obtain ⟨_, _, hpending, hpending', hrule, hfallback, hlen, hcap, hsrc, hdst⟩ := h
  refine ⟨?_, trivial⟩
  exact ⟨hpending, hpending', rfl, rfl, hlen, hcap, rfl, rfl, rfl, rfl, rfl, hrule, hfallback, rfl, rfl, rfl, rfl,
    rfl, rfl, rfl, rfl, hsrc, hdst⟩

end

/-- Settles O59: the simulation, from START on. -/
theorem decodeDependsOnLaunchOnly : Obligations.DecodeDependsOnLaunchOnly := by
  intro s t p n h
  have hstart : InvTree (startDecode p s) := invTree_elsewhere nofun rfl
  obtain ⟨s', t', hs, ht, halike⟩ := (alike_startDecode h p).alike_run n hstart
  exact ⟨s', t', hs, ht, halike.sameView⟩

end Sys2Proof.Machine

/-! ## Failures

What a failing step leaves behind (60_exceptions.md R301, R309, R320), the states in which the engine rests (R337),
and the order of the container's checks (R312). -/

namespace Sys2Proof.Machine

/-! ### The failure entry -/

/-- Settles O41: the code table failure by failure; the information value is cut to the register's 32 bits. -/
theorem failureEntryRecord : Obligations.FailureEntryRecord := by
  intro e info s
  rw [← BitVec.toNat_ofNat, BitVec.ofNat_toNat, BitVec.setWidth_eq]
  cases e <;> rfl

/-- Settles O18: a code word due at the sequencer is run in its place, where its field is too wide. -/
theorem wideFieldRaises : Obligations.WideFieldRaises := by
  intro s i w hdue hwidth hw
  exact exec_wide_field (dueAt_of_formatDue hdue) hwidth hw

section
variable {s t : State}

theorem failedWith_takeFailure (e : Failure) (info : Nat) (s : State) :
    failedWith (takeFailure e info s) (failureCode e) info :=
  ⟨rfl, rfl, rfl, rfl, rfl, rfl⟩

/-- STATE is not BUSY in IDLE, DONE and ERROR alone (10_state.md R46). -/
theorem seq_of_not_busy (h : busy s = false) : s.seq = .idle ∨ s.seq = .done ∨ s.seq = .error := by
  cases hseq : s.seq with
  | idle => exact .inl rfl
  | done => exact .inr (.inl rfl)
  | error => exact .inr (.inr rfl)
  | _ => exact absurd (h.symm.trans (busy_of_seq hseq rfl)) nofun

/-- Of the moves of a running decode only a raise ends in ERROR, and it is made after the bits and header fields that
its rule had read (60_exceptions.md R320). -/
theorem EngineMove.eq_takeFailure_of_error (h : EngineMove s t) (hbusy : busy s = true) (herror : t.seq = .error) :
    ∃ e info p ch bh, t = takeFailure e info { s with bitPosition := p, ch := ch, bh := bh } := by
  have running (hrun : busy t = true) : False := ne_error_of_busy hrun herror
  cases h with
  | fail e info p ch bh => exact ⟨e, info, p, ch, bh, rfl⟩
  | rest => exact absurd herror (ne_error_of_busy hbusy)
  | beginTree | buildNode | storedByte | descend | matchLength | copyByte =>
    exact absurd herror (ne_error_of_busy hbusy)
  | acceptContainer | beginStored | beginCompressed | matchDistance | finish => cases herror
  | endTree => exact (running (busy_at_block (endTree_seq s))).elim
  | endStored => exact (running (busy_at_block (endStoredBlock_seq s))).elim
  | runCount r p =>
    obtain ⟨hrun, _⟩ := loadRunCount_running r { s with bitPosition := p }
    exact (running hrun).elim
  | literal | endMatch =>
    simp only [endMatch_seq] at herror
    split at herror <;> cases herror

/-- STATUS of a state in ERROR has 3 in its low byte (10_state.md R33). -/
theorem statusWord_low_of_error (h : s.seq = .error) : (statusWord s).extractLsb' 0 8 = 3 := by
  have hcode : (s.code.setWidth 32 <<< 8).extractLsb' 0 8 = 0 := by
    ext i hi
    simp
    omega
  rw [statusWord_eq, h, BitVec.extractLsb'_or, hcode]
  rfl

end

/-- Settles O40: in the three sequencer states that are not BUSY the engine's step is the same state. -/
theorem engineIdlesWhenNotBusy : Obligations.EngineIdlesWhenNotBusy := by
  intro s hp hidle
  rw [step_of_pending_nil hp]
  rcases seq_of_not_busy hidle with hseq | hseq | hseq <;> simp only [fetchEngine, hseq, Fetched.run]

/-- Settles O42: the step is a raise, whose record is the failure entry's. -/
theorem everyFailureIsRecorded : Obligations.EveryFailureIsRecorded := by
  intro s t hp hbusy h herror
  obtain ⟨e, info, p, ch, bh, rfl⟩ := (engineMove_of_step hp h).eq_takeFailure_of_error hbusy herror
  exact ⟨rfl, rfl, rfl, rfl, rfl, rfl, failureCode_mem e, statusWord_low_of_error rfl⟩

/-! ### The checks of the container -/

section
variable {s : State}

/-- The signature that the source holds (30_encoding.md R120). -/
def signatureOf (s : State) : Word := le32 (s.src.read 0) (s.src.read 1) (s.src.read 2) (s.src.read 3)

/-- `s` with the signature read into `ch` (44_container.md R272 (a)). -/
def withSignature (s : State) : State := { s with ch := { s.ch with signature := signatureOf s } }

/-- The presence check comes before any byte is read (44_container.md R271). -/
theorem fetchContainer_absent (h : s.srcPresent = false) : fetchContainer s = raise .invalidInput 0 s := by
  rw [fetchContainer, h]
  rfl

theorem fetchContainer_overrun (h : s.srcPresent = true) (hlen : s.srcLen.toNat < 4) :
    fetchContainer s = raise .sourceOverrun s.srcLen.toNat s := by
  rw [fetchContainer, if_pos h]
  rcases srcRead32_cases 0 s with ⟨_, _⟩ | ⟨_, e⟩
  · omega
  · rw [e, Res.bind_raise, Nat.zero_max]

/-- The signature read is the container's, or the word is no container (30_encoding.md R150 (a)). -/
theorem fetchContainer_signature (h : s.srcPresent = true) (hlen : 4 ≤ s.srcLen.toNat) : fetchContainer s =
    if signatureOf s = magic then .ok .container (withSignature s)
    else raise .signatureMismatch 0 (withSignature s) := by
  rw [fetchContainer, if_pos h, srcRead32_ok (by omega), Res.bind_ok]
  change (match decodeWord .container (signatureOf s) with
    | .ok i => Res.ok i (withSignature s)
    | .error _ => raise .signatureMismatch 0 (withSignature s)) = _
  by_cases hsig : signatureOf s = magic
  · rw [if_pos hsig, decodeWord, if_pos hsig]
  · rw [if_neg hsig, decodeWord, if_neg hsig]

/-- `f` reads the container bytes from `lo` to below `hi` and writes `ch` alone, or raises SourceOverrun at the first
of them that is missing. -/
def LoadsContainerAt (lo hi : Nat) (f : State → Res Unit) : Prop :=
  ∀ s, (hi ≤ s.srcLen.toNat ∧ ∃ ch, f s = .ok () { s with ch := ch }) ∨
    (s.srcLen.toNat < hi ∧ f s = raise .sourceOverrun (max lo s.srcLen.toNat) s)

/-- A load of container bytes that are there, followed by loads that are cut short, is cut short itself. -/
theorem LoadsContainerAt.overrun {lo hi : Nat} {f : State → Res Unit} {fs : List (State → Res Unit)}
    (hf : LoadsContainerAt lo hi f) (hlo : lo ≤ s.srcLen.toNat)
    (hfs : hi ≤ s.srcLen.toNat → ∀ ch, ∃ ch',
      Res.seqAll fs { s with ch := ch } = raise .sourceOverrun s.srcLen.toNat { s with ch := ch' })
    (ch : ContainerHeader) : ∃ ch',
      Res.seqAll (f :: fs) { s with ch := ch } = raise .sourceOverrun s.srcLen.toNat { s with ch := ch' } := by
  rw [Res.seqAll_cons]
  rcases hf { s with ch := ch } with ⟨hhi, ch', e⟩ | ⟨_, e⟩
  · rw [e, Res.bind_ok]
    exact hfs hhi ch'
  · exact ⟨ch, by rw [e, Res.bind_raise]; exact congrArg (raise _ · _) (max_eq_right hlo)⟩

/-- The header's bytes 4 to 15 are loaded in order, and the first missing one is recorded (44_container.md R272 (c),
60_exceptions.md R305). -/
theorem loadContainerHeader_overrun (hlo : 4 ≤ s.srcLen.toNat) (hhi : s.srcLen.toNat < 16) :
    ∃ ch, loadContainerHeader s = raise .sourceOverrun s.srcLen.toNat { s with ch := ch } := by
  have word {a : Nat} {store : Word → State → ContainerHeader} : LoadsContainerAt a (a + 4)
      fun s => (srcRead32 a s).bind fun v s => .ok () { s with ch := store v s } := by
    intro s
    rcases srcRead32_cases a s with ⟨h, e⟩ | ⟨h, e⟩
    · exact .inl ⟨by omega, _, by simp only [e, Res.bind_ok]; rfl⟩
    · exact .inr ⟨by omega, by simp only [e, Res.bind_raise]⟩
  have half {a : Nat} {store : Half → State → ContainerHeader} : LoadsContainerAt a (a + 2)
      fun s => (srcRead16 a s).bind fun v s => .ok () { s with ch := store v s } := by
    intro s
    rcases srcRead16_cases a s with ⟨h, e⟩ | ⟨h, e⟩
    · exact .inl ⟨by omega, _, by simp only [e, Res.bind_ok]; rfl⟩
    · exact .inr ⟨by omega, by simp only [e, Res.bind_raise]⟩
  have byte {a : Nat} {store : Byte → State → ContainerHeader} : LoadsContainerAt a (a + 1)
      fun s => (srcRead a s).bind fun v s => .ok () { s with ch := store v s } := by
    intro s
    rcases srcRead_cases a s with ⟨h, e⟩ | ⟨h, e⟩
    · exact .inl ⟨by omega, _, by simp only [e, Res.bind_ok]; rfl⟩
    · exact .inr ⟨by omega, by simp only [e, Res.bind_raise, max_eq_left h]⟩
  exact word.overrun hlo (fun h8 => word.overrun h8 fun h12 => half.overrun h12 fun h14 =>
    byte.overrun h14 fun h15 => byte.overrun h15 fun h16 => absurd hhi (Nat.not_lt.mpr h16)) s.ch

theorem checkCapacity_small (h : s.dstCap.toNat < s.ch.uncompressedLength.toNat) :
    checkCapacity s = raise .destinationTooSmall 0 s := if_pos h

/-! The step in VALIDATE, by the first check that fails. -/

section
variable (hp : s.pending = []) (hseq : s.seq = .validate)
include hp hseq

theorem step_of_validate : step s = (fetchContainer s).toFetched.run := by
  simp only [step_of_pending_nil hp, fetchEngine, hseq]

theorem step_absent (h : s.srcPresent = false) : step s = .next (takeFailure .invalidInput 0 s) := by
  rw [step_of_validate hp hseq, fetchContainer_absent h, Res.toFetched_raise, Fetched.run]

theorem step_signature_overrun (h : s.srcPresent = true) (hlen : s.srcLen.toNat < 4) :
    step s = .next (takeFailure .sourceOverrun s.srcLen.toNat s) := by
  rw [step_of_validate hp hseq, fetchContainer_overrun h hlen, Res.toFetched_raise, Fetched.run]

theorem step_signature_mismatch (h : s.srcPresent = true) (hlen : 4 ≤ s.srcLen.toNat)
    (hsig : signatureOf s ≠ magic) : step s = .next (takeFailure .signatureMismatch 0 (withSignature s)) := by
  rw [step_of_validate hp hseq, fetchContainer_signature h hlen, if_neg hsig, Res.toFetched_raise, Fetched.run]

theorem step_signature_magic (h : s.srcPresent = true) (hlen : 4 ≤ s.srcLen.toNat) (hsig : signatureOf s = magic) :
    step s = ((loadContainerHeader (withSignature s)).bind fun _ s => checkCapacity s).toResult := by
  rw [step_of_validate hp hseq, fetchContainer_signature h hlen, if_pos hsig, Res.toFetched_ok, Fetched.run]
  exact execContainer_of_magic hseq hsig

theorem step_header_overrun (h : s.srcPresent = true) (hlo : 4 ≤ s.srcLen.toNat) (hsig : signatureOf s = magic)
    (hhi : s.srcLen.toNat < 16) :
    ∃ ch, step s = .next (takeFailure .sourceOverrun s.srcLen.toNat { s with ch := ch }) := by
  obtain ⟨ch, e⟩ := loadContainerHeader_overrun (s := withSignature s) hlo hhi
  exact ⟨ch, by rw [step_signature_magic hp hseq h hlo hsig, e, Res.bind_raise, Res.toResult_raise]; rfl⟩

theorem step_header (h : s.srcPresent = true) (hlen : 16 ≤ s.srcLen.toNat) (hsig : signatureOf s = magic) :
    step s = (checkCapacity { s with ch := headerFrom s.src.read (signatureOf s) }).toResult := by
  rw [step_signature_magic hp hseq h (by omega) hsig, loadContainerHeader_ok (s := withSignature s) hlen,
    Res.bind_ok]
  rfl

end

end

/-- Settles O27, a check at a time: each is made where the ones before it have passed. -/
theorem validationOrder : Obligations.ValidationOrder := by
  intro s hp hseq byte sig len
  by_cases habsent : s.srcPresent = false
  · refine ⟨_, step_absent hp hseq habsent, rfl, rfl, rfl, ?_⟩
    rw [if_pos habsent]
    exact failedWith_takeFailure _ _ _
  have hpresent : s.srcPresent = true := Bool.eq_true_of_not_eq_false habsent
  simp only [if_neg habsent]
  by_cases hfour : s.srcLen.toNat < 4
  · refine ⟨_, step_signature_overrun hp hseq hpresent hfour, rfl, rfl, rfl, ?_⟩
    rw [if_pos hfour]
    exact failedWith_takeFailure _ _ _
  have hfour' : 4 ≤ s.srcLen.toNat := Nat.le_of_not_lt hfour
  simp only [if_neg hfour]
  by_cases hsig : sig ≠ magic
  · refine ⟨_, step_signature_mismatch hp hseq hpresent hfour' hsig, rfl, rfl, rfl, ?_⟩
    rw [if_pos hsig]
    exact failedWith_takeFailure _ _ _
  have hmagic : signatureOf s = magic := not_not.mp hsig
  simp only [if_neg hsig]
  by_cases hsixteen : s.srcLen.toNat < 16
  · obtain ⟨ch, hstep⟩ := step_header_overrun hp hseq hpresent hfour' hmagic hsixteen
    refine ⟨_, hstep, rfl, rfl, rfl, ?_⟩
    rw [if_pos hsixteen]
    exact failedWith_takeFailure _ _ _
  have hstep := step_header hp hseq hpresent (Nat.le_of_not_lt hsixteen) hmagic
  simp only [if_neg hsixteen]
  by_cases hcap : s.dstCap.toNat < len.toNat
  · rw [checkCapacity_small hcap, Res.toResult_raise] at hstep
    refine ⟨_, hstep, rfl, rfl, rfl, ?_⟩
    rw [if_pos hcap]
    exact failedWith_takeFailure _ _ _
  · rw [checkCapacity_ok (Nat.le_of_not_lt hcap), Res.toResult_ok] at hstep
    refine ⟨_, hstep, rfl, rfl, rfl, ?_⟩
    rw [if_neg hcap]
    exact ⟨rfl, hmagic, rfl, rfl, rfl, rfl, rfl⟩

end Sys2Proof.Machine

/-! ## Progress

No step of a decode gets stuck (60_exceptions.md R338): the simulation of two cores, taken from a core to itself, says
of each step that it answers a state. -/

namespace Sys2Proof.Machine

section
variable {s : State}

/-- A core with no host action to come is at the same point of a decode as itself. -/
theorem alike_self (hp : s.pending = []) : Alike s s where
  pending_left := hp
  pending_right := hp
  srcPresent := rfl
  code := rfl
  srcLen := rfl
  dstCap := rfl
  result := rfl
  writePosReg := rfl
  faultAddr := rfl
  faultBitpos := rfl
  faultBlock := rfl
  leafRule := rfl
  matchFallback := rfl
  bitPosition := rfl
  bitBase := rfl
  writePos := rfl
  blockIndex := rfl
  seq := rfl
  runRemaining := rfl
  matchRemaining := rfl
  matchDistance := rfl
  src _ _ := rfl
  dst _ _ := rfl
  written := by
    have htree (k : Nat) : SameTreeBelow k s s := ⟨rfl, fun _ _ => rfl⟩
    have hblocks : SameBlocks s s := ⟨rfl, rfl, htree _⟩
    cases s.seq with
    | idle | validate | done | error => trivial
    | buildTree => exact ⟨rfl, rfl, fun _ => htree _⟩
    | blockHeader => exact hblocks
    | litCount | matchCount => exact ⟨hblocks, rfl⟩
    | storedCopy | litSymbol | matchItem | matchCopy => exact ⟨hblocks, rfl, rfl⟩
    | finish => rfl

/-- With a whole tree the engine's step answers a state, again with no host action to come. -/
theorem step_progress (hp : s.pending = []) (htree : InvTree s) : ∃ t, step s = .next t ∧ t.pending = [] := by
  obtain ⟨t, _, hstep, _, halike⟩ := (alike_self hp).nextAlike_step htree
  exact ⟨t, hstep, halike.pending_left⟩

/-- An access of the host answers a state, but for a write to a memory while STATE is BUSY (log entry 8). -/
theorem hostAccess_cases (act : HostAct) (s : State) :
    (∃ t, hostAccess act s = .next t) ∨
    (busy s = true ∧ hostAccess act s = .refused .hostMemoryWriteWhileBusy ∧
      ((∃ a v, act = .writeSrc a v) ∨ (∃ a v, act = .writeDst a v))) := by
  cases act with
  | writeReg | readReg | readSrc | readDst | reset => exact .inl ⟨_, rfl⟩
  | writeSrc a v =>
    cases hbusy : busy s with
    | false => exact .inl ⟨_, by rw [hostAccess, hbusy]; rfl⟩
    | true => exact .inr ⟨rfl, by rw [hostAccess, hbusy]; rfl, .inl ⟨a, v, rfl⟩⟩
  | writeDst a v =>
    cases hbusy : busy s with
    | false => exact .inl ⟨_, by rw [hostAccess, hbusy]; rfl⟩
    | true => exact .inr ⟨rfl, by rw [hostAccess, hbusy]; rfl, .inr ⟨a, v, rfl⟩⟩

/-- A due action of the host is a START, which always answers a state, or an access. -/
theorem step_of_due_cases {act : HostAct} {rest : List HostEvent}
    (hp : s.pending = { after := 0, act := act } :: rest) :
    (∃ t, step s = .next t) ∨ step s = hostAccess act { s with pending := rest } := by
  cases act with
  | writeReg off v =>
    by_cases hstart : off = 0 ∧ v.getLsbD 0 = true
    · obtain ⟨rfl, hv⟩ := hstart
      obtain ⟨hbegin, hignored⟩ := startBeginsDecode { s with pending := rest } (v.getLsbD 1)
      rw [startWriteRunsStart s v rest hp hv]
      cases hbusy : busy { s with pending := rest } with
      | false => exact .inl ⟨_, hbegin hbusy⟩
      | true => exact .inl ⟨_, hignored hbusy⟩
    · exact .inr (step_of_due hp (fetchHost_writeReg
        (fun hoff => Bool.eq_false_iff.mpr fun hv => hstart ⟨hoff, hv⟩) _))
  | readReg | writeSrc | readSrc | writeDst | readDst | reset => exact .inr (step_of_due hp rfl)

end

/-- Settles O43, by the agent that moves: the engine's step answers a state, and so does the host's unless it writes a
memory while STATE is BUSY. -/
theorem stepNeverStops : Obligations.StepNeverStops := by
  rintro s htree _ rfl
  match hp : s.pending with
  | [] =>
    obtain ⟨t, hstep, _⟩ := step_progress hp htree
    exact .inl ⟨t, hstep⟩
  | { after := n + 1, act } :: rest =>
    obtain ⟨t, hstep, _⟩ := step_progress (s := { s with pending := [] }) rfl htree
    exact .inl ⟨_, (step_of_after_succ hp rfl).trans (congrArg (Result.withPending _) hstep)⟩
  | { after := 0, act } :: rest =>
    rcases step_of_due_cases hp with hnext | haccess
    · exact .inl hnext
    rcases hostAccess_cases act { s with pending := rest } with ⟨t, hnext⟩ | ⟨hbusy, hrefused, hwrite⟩
    · exact .inl ⟨t, haccess.trans hnext⟩
    · exact .inr ⟨hbusy, haccess.trans hrefused, _, rest, rfl, rfl, hwrite⟩

end Sys2Proof.Machine

/-! ## Termination

Every step of a decode uses up something of which the launch sets the amount: a node of the tree, a block, a bit of
the current region, a byte of the destination (70_reset_and_hazards.md R371). `stepsLeft` adds these up, every step
lowers it, and so every decode ends. -/

namespace Sys2Proof.Machine

/-! ### What a decode has left -/

/-- How many stream bits at most lie from `bitPosition` on, below SRC_LEN (20_memory.md R84). -/
def bitsLeft (s : State) : Nat := 8 * s.srcLen.toNat - s.bitPosition.toNat

/-- How many bytes the destination still takes (10_state.md R43). -/
def roomLeft (s : State) : Nat := s.dstCap.toNat - s.writePos.toNat

/-- How many blocks there are from `blockIndex` on (44_container.md R277). -/
def blocksLeft (s : State) : Nat := s.ch.blockCount.toNat - s.blockIndex.toNat

/-- How many nodes are still to be built (41_huffman.md R182). -/
def nodesLeft (s : State) : Nat := s.treeSize.toNat + 1 - s.buildIndex.toNat

/-- A bound on the steps of `n` whole blocks and FINISH: one for each byte written, and for each block the share that
`stepBound` has. -/
def blockSteps (n : Nat) (s : State) : Nat := n * (16 * s.srcLen.toNat + 40) + roomLeft s + 1

/-- A bound on the steps from inside a block's bitstream: two for each bit, since a match takes a step for its end
beside those for its code words. -/
def streamSteps (s : State) : Nat := blockSteps (blocksLeft s - 1) s + 2 * bitsLeft s + 1

/-- A bound on the steps until DONE or ERROR, by the sequencer's state. -/
def stepsLeft (s : State) : Nat :=
  match s.seq with
  | .idle | .done | .error => 0
  | .validate => blockSteps 65535 s + 514
  | .buildTree => blockSteps 65535 s + if s.buildIndex = 0 then 513 else nodesLeft s + 1
  | .blockHeader => blockSteps (blocksLeft s) s
  | .storedCopy => blockSteps (blocksLeft s - 1) s + 1
  | .litCount | .litSymbol | .matchCount | .matchItem => streamSteps s
  | .matchCopy => streamSteps s + 1
  | .finish => blockSteps 0 s

section
variable {s t : State}

theorem blockSteps_pos (n : Nat) (s : State) : 0 < blockSteps n s := Nat.succ_pos _

theorem blockSteps_mono {m n : Nat} (h : m ≤ n) (s : State) : blockSteps m s ≤ blockSteps n s :=
  Nat.add_le_add_right (Nat.add_le_add_right (Nat.mul_le_mul_right _ h) _) _

theorem blockSteps_pred {n : Nat} (h : 0 < n) (s : State) :
    blockSteps n s = blockSteps (n - 1) s + (16 * s.srcLen.toNat + 40) := by
  obtain ⟨m, rfl⟩ := Nat.exists_eq_succ_of_ne_zero (Nat.pos_iff_ne_zero.mp h)
  rw [Nat.succ_sub_one, blockSteps, blockSteps, Nat.succ_mul]
  omega

/-- A byte written leaves a step less. -/
theorem blockSteps_of_write {n : Nat} (hcap : s.writePos.toNat < s.dstCap.toNat) (hlen : t.srcLen = s.srcLen)
    (hdst : t.dstCap = s.dstCap) (hpos : t.writePos = s.writePos + 1) :
    blockSteps n t < blockSteps n s := by
  rw [blockSteps, blockSteps, roomLeft, roomLeft, hlen, hdst, hpos, toNat_writePos_add_one hcap]
  omega

/-- Before the end of a decode there is a step to take. -/
theorem stepsLeft_pos (h : busy s = true) : 0 < stepsLeft s := by
  have hblocks (n : Nat) := blockSteps_pos n s
  cases hseq : s.seq with
  | idle | done | error =>
    rw [busy, hseq] at h
    cases h
  | blockHeader | finish =>
    simp only [stepsLeft, hseq]
    exact hblocks _
  | validate | buildTree | storedCopy =>
    simp only [stepsLeft, hseq]
    exact Nat.add_pos_left (hblocks _) _
  | litCount | litSymbol | matchCount | matchItem | matchCopy =>
    simp only [stepsLeft, hseq, streamSteps]
    exact Nat.succ_pos _

theorem stepsLeft_error (h : s.seq = .error) : stepsLeft s = 0 := by
  simp only [stepsLeft, h]

/-- After a block's framing, or the tree's end, what is left is the blocks from `blockIndex` on. -/
theorem stepsLeft_at_block_le {n k : Half} (hseq : t.seq = if n = k then .finish else .blockHeader) :
    stepsLeft t ≤ blockSteps (blocksLeft t) t := by
  split at hseq <;> simp only [stepsLeft, hseq]
  · exact blockSteps_mono (Nat.zero_le _) t
  · exact le_rfl

/-- A block's framing leaves one block less: the index does not wrap below `blockCount` (44_container.md R277). -/
theorem stepsLeft_nextBlock_le (h : s.blockIndex.toNat < s.ch.blockCount.toNat) :
    stepsLeft (nextBlock s) ≤ blockSteps (blocksLeft s - 1) s := by
  have hleft : blocksLeft (nextBlock s) = blocksLeft s - 1 := by
    simp only [blocksLeft, nextBlock_ch, nextBlock_blockIndex]
    bv_omega
  rw [← hleft]
  exact stepsLeft_at_block_le (nextBlock_seq s)

/-- The sequencer states of a bitstream outside its copies. -/
def atCode : Seq → Bool
  | .litCount | .litSymbol | .matchCount | .matchItem => true
  | _ => false

theorem stepsLeft_of_atCode (h : atCode s.seq = true) : stepsLeft s = streamSteps s := by
  cases hseq : s.seq with
  | litCount | litSymbol | matchCount | matchItem => simp only [stepsLeft, hseq]
  | _ =>
    rw [hseq] at h
    cases h

/-! ### Code words use up bits -/

/-- A read of no bits changes nothing; any other leaves fewer bits, since its first lies below SRC_LEN. -/
theorem readBits_ok_bitsLeft {n : Nat} {v : Half} (h : readBits n s = .ok v t) :
    (n = 0 ∧ t = s) ∨ bitsLeft t < bitsLeft s := by
  rcases readBits_cases n s with ⟨_, e⟩ | ⟨hn, e⟩ | ⟨_, _, _, e⟩ | ⟨_, _, _, _, _, e⟩ | ⟨hpos, _, h32, hlen, _, e⟩ <;>
    rw [e] at h
  · cases h
  · obtain ⟨-, rfl⟩ := Res.ok.inj h
    exact .inl ⟨hn, rfl⟩
  · cases h
  · cases h
  · obtain ⟨-, rfl⟩ := Res.ok.inj h
    right
    rw [bitsLeft, bitsLeft, toNat_advance_bitPosition h32, advance_srcLen]
    omega

theorem readBits_ok_bitsLeft_le {n : Nat} {v : Half} (h : readBits n s = .ok v t) : bitsLeft t ≤ bitsLeft s := by
  rcases readBits_ok_bitsLeft h with ⟨_, rfl⟩ | hlt
  · exact le_rfl
  · exact hlt.le

/-- An operation that answers did so after the one it begins with. -/
theorem Res.bind_eq_ok {α β : Type} {r : Res α} {k : α → State → Res β} {b : β} (h : r.bind k = .ok b t) :
    ∃ a u, r = .ok a u ∧ k a u = .ok b t := by
  cases r with
  | ok a u => exact ⟨a, u, rfl, h⟩
  | raised u => cases h

theorem fetchTree_bitsLeft_le {c : CodeTree} {i : Instr} (h : fetchTree c s = .ok i t) :
    bitsLeft t ≤ bitsLeft s := by
  induction c generalizing s with
  | instr j =>
    obtain ⟨-, rfl⟩ := Res.ok.inj h
    exact le_rfl
  | field w mk =>
    rw [fetchTree] at h
    split at h
    · obtain ⟨-, rfl⟩ := Res.ok.inj h
      exact le_rfl
    · obtain ⟨v, u, hread, h⟩ := Res.bind_eq_ok h
      obtain ⟨-, rfl⟩ := Res.ok.inj h
      exact readBits_ok_bitsLeft_le hread
  | read n k ih =>
    obtain ⟨v, u, hread, h⟩ := Res.bind_eq_ok h
    exact (ih _ h).trans (readBits_ok_bitsLeft_le hread)

/-- Every code begins with a read of at least one bit (30_encoding.md R141 to R145). -/
theorem exists_read_of_codeOfFormat {f : Format} {bh : BlockHeader} {c : CodeTree} (h : codeOfFormat bh f = some c) :
    ∃ n k, c = .read n k ∧ 0 < n := by
  cases f with
  | lr | mc | off | huf | tf => exact ⟨_, _, (Option.some.inj h).symm, by decide⟩
  | block | container | hostreg => nomatch h

theorem fetchTree_bitsLeft_lt {f : Format} {bh : BlockHeader} {c : CodeTree} {i : Instr}
    (hcode : codeOfFormat bh f = some c) (h : fetchTree c s = .ok i t) : bitsLeft t < bitsLeft s := by
  obtain ⟨n, k, rfl, hn⟩ := exists_read_of_codeOfFormat hcode
  obtain ⟨v, u, hread, h⟩ := Res.bind_eq_ok h
  rcases readBits_ok_bitsLeft hread with ⟨hzero, _⟩ | hlt
  · omega
  · exact (fetchTree_bitsLeft_le h).trans_lt hlt

theorem loadRunCount_bitsLeft (r : Word) (s : State) : bitsLeft (loadRunCount r s) = bitsLeft s := by
  rcases loadRunCount_cases r s with ⟨_, e⟩ | ⟨_, _, e⟩ | ⟨_, _, e⟩ <;> rw [e] <;> rfl

/-- The meaning of a code word starts past its bits and leaves `bitPosition` there. -/
theorem exec_bitsLeft {i : Instr} {bh : BlockHeader} {c : CodeTree} (hi : codeOfFormat bh i.format = some c)
    (h : exec i s = .next t) : bitsLeft t = bitsLeft s := by
  cases hformat : i.format with
  | lr =>
    obtain ⟨_, ⟨n, rfl⟩ | ⟨r, _, rfl⟩⟩ := exec_lr_next hformat h
    · rfl
    · exact loadRunCount_bitsLeft r s
  | mc =>
    obtain ⟨_, ⟨n, rfl⟩ | ⟨len, _, rfl⟩⟩ := exec_mc_next hformat h <;> rfl
  | off =>
    obtain ⟨len, _, _, ⟨n, rfl⟩ | ⟨dist, _, rfl⟩⟩ := exec_off_next hformat h <;> rfl
  | huf =>
    obtain ⟨_, n, _, rfl | ⟨_, rfl⟩⟩ := exec_huf_next hformat h <;> rfl
  | tf =>
    obtain ⟨_, rfl | ⟨leaf, v, rfl⟩⟩ := exec_tf_next hformat h <;> rfl
  | block | container | hostreg =>
    rw [hformat] at hi
    cases hi

/-- A step at a code word fails, or leaves fewer bits. -/
theorem step_bitsLeft_lt {f : Format} {c : CodeTree} (hp : s.pending = []) (hdue : DueAt s f)
    (hcode : codeOfFormat s.bh f = some c) (h : step s = .next t) : t.seq = .error ∨ bitsLeft t < bitsLeft s := by
  rw [step_of_dueAt hp hdue hcode] at h
  rcases fetchTree_cases c s with ⟨i, p, e⟩ | ⟨e, n, p, hraise⟩
  · have hformat : i.format = f := fetchTree_all (CodeTree.all_codeOfFormat hcode) e
    rw [e, Res.toFetched_ok, Fetched.run] at h
    rw [exec_bitsLeft (hformat ▸ hcode) h]
    exact .inr (fetchTree_bitsLeft_lt hcode e)
  · rw [hraise] at h
    exact .inl (next_inj h ▸ rfl)

/-! ### Every step lowers the bound -/

/-- A step at a code word of the bitstream, each bit being worth two steps. -/
theorem stepsLeft_lt_of_code {f : Format} {c : CodeTree} (hp : s.pending = []) (hdue : DueAt s f)
    (hcode : codeOfFormat s.bh f = some c) (h : step s = .next t) (hs : atCode s.seq = true)
    (ht : stepsLeft t ≤ blockSteps (blocksLeft s - 1) s + 2 * bitsLeft t + 2) : stepsLeft t < stepsLeft s := by
  rcases step_bitsLeft_lt hp hdue hcode h with herror | hbits
  · rw [stepsLeft_error herror, stepsLeft_of_atCode hs]
    exact Nat.succ_pos _
  · rw [stepsLeft_of_atCode hs, streamSteps]
    omega

theorem stepsLeft_loadRunCount_le (r : Word) (h : s.blockIndex.toNat < s.ch.blockCount.toNat) :
    stepsLeft (loadRunCount r s) ≤ streamSteps s := by
  rcases loadRunCount_cases r s with ⟨_, e⟩ | ⟨_, _, e⟩ | ⟨_, _, e⟩ <;> rw [e]
  · have hnext : stepsLeft (endCompressedBlock s) ≤ blockSteps (blocksLeft s - 1) s := stepsLeft_nextBlock_le h
    rw [streamSteps]
    omega
  · exact le_rfl
  · exact le_rfl

/-- One of the two codes is due at a match item (43_block.md R235). -/
theorem exists_dueAt_of_matchItem (hseq : s.seq = .matchItem) :
    ∃ f c, DueAt s f ∧ codeOfFormat s.bh f = some c := by
  cases hlen : s.lenRead with
  | none => exact ⟨.mc, _, ⟨hseq, hlen⟩, rfl⟩
  | some len => exact ⟨.off, _, ⟨hseq, len, hlen⟩, rfl⟩

/-- An entry with a child is no leaf in a whole tree (41_huffman.md R187). -/
theorem isLeaf_eq_false_of_child {e : Node} {n : TreeIndex} (hok : nodeOk e = true)
    (hchild : e.left = some n ∨ e.right = some n) : e.isLeaf = false := by
  cases hleaf : e.isLeaf with
  | false => rfl
  | true =>
    have hnone : e.left = none ∧ e.right = none := by simpa [nodeOk, hleaf] using hok
    obtain ⟨hleft, hright⟩ := hnone
    rw [hleft, hright] at hchild
    rcases hchild with h | h <;> cases h

/-- The traversal bit is due at an entry with a child. -/
theorem InvTree.dueAt_huf (hs : InvTree s) (hseq : s.seq = .litSymbol) {n : TreeIndex}
    (hchild : (treeAt s s.node.toNat).left = some n ∨ (treeAt s s.node.toNat).right = some n) : DueAt s .huf := by
  obtain ⟨_, _, hnodes⟩ := hs.at_block (by rw [hseq]; rfl)
  obtain ⟨_, _, hwithin⟩ := hs
  exact ⟨hseq, isLeaf_eq_false_of_child (hnodes _ (Nat.lt_succ_of_le (hwithin hseq))) hchild⟩

theorem stepsLeft_building (hseq : s.seq = .buildTree) (hpos : 0 < s.buildIndex.toNat) :
    stepsLeft s = blockSteps 65535 s + (nodesLeft s + 1) := by
  have hne : s.buildIndex ≠ 0 := by bv_omega
  simp only [stepsLeft, hseq, if_neg hne]

/-- A tree has at most 511 entries, the root among them (41_huffman.md R181). -/
theorem stepsLeft_beginTree_lt (hseq : s.seq = .buildTree) (hindex : s.buildIndex = 0) :
    stepsLeft (beginTree s) < stepsLeft s := by
  have hs : stepsLeft s = blockSteps 65535 s + 513 := by simp only [stepsLeft, hseq, if_pos hindex]
  have ht : stepsLeft (beginTree s) = blockSteps 65535 s + (nodesLeft (beginTree s) + 1) :=
    stepsLeft_building hseq Nat.one_pos
  have hnodes : nodesLeft (beginTree s) = 2 * s.ch.huffmanTreeByteLength.toNat := by
    rw [nodesLeft, toNat_beginTree_treeSize, beginTree_buildIndex]
    rfl
  omega

/-- A stored node is one node less: the index does not wrap, being at most the tree's size. -/
theorem stepsLeft_buildNode_lt (leaf : Bool) (v : Byte) (hseq : s.seq = .buildTree) (hpos : 0 < s.buildIndex.toNat)
    (hle : s.buildIndex.toNat ≤ s.treeSize.toNat) :
    stepsLeft { setTree s.buildIndex.toNat (storedNode leaf v) (advance 1 s) with
      buildIndex := s.buildIndex + 1 } < stepsLeft s := by
  have hnext : (s.buildIndex + 1).toNat = s.buildIndex.toNat + 1 := by
    have hbound : s.treeSize.toNat < 2 ^ 9 := s.treeSize.isLt
    bv_omega
  have hpos' : 0 < (s.buildIndex + 1).toNat := by omega
  rw [stepsLeft_building hseq hpos]
  refine lt_of_eq_of_lt (stepsLeft_building hseq hpos') ?_
  refine Nat.add_lt_add_left (Nat.succ_lt_succ ?_) (blockSteps 65535 s)
  show s.treeSize.toNat + 1 - (s.buildIndex + 1).toNat < s.treeSize.toNat + 1 - s.buildIndex.toNat
  omega

/-- A container has at most 65535 blocks (30_encoding.md R120). -/
theorem stepsLeft_endTree_lt (hseq : s.seq = .buildTree) (hlt : s.treeSize.toNat < s.buildIndex.toNat) :
    stepsLeft (endTree s) < stepsLeft s := by
  have hcount : blocksLeft (endTree s) ≤ 65535 :=
    (Nat.sub_le _ _).trans (Nat.le_of_lt_succ s.ch.blockCount.isLt)
  have hblocks : blockSteps (blocksLeft (endTree s)) (endTree s) ≤ blockSteps 65535 s :=
    blockSteps_mono hcount (endTree s)
  have ht := stepsLeft_at_block_le (endTree_seq s)
  rw [stepsLeft_building hseq (by omega)]
  omega

/-- A block header leaves the block's own share of steps to its kind (43_block.md R231, R253). -/
theorem stepsLeft_blockHeader (hseq : s.seq = .blockHeader) (h : s.blockIndex.toNat < s.ch.blockCount.toNat) :
    stepsLeft s = blockSteps (blocksLeft s - 1) s + (16 * s.srcLen.toNat + 40) := by
  have hs : stepsLeft s = blockSteps (blocksLeft s) s := by simp only [stepsLeft, hseq]
  have hleft : 0 < blocksLeft s := Nat.sub_pos_of_lt h
  rw [hs, blockSteps_pred hleft]

theorem stepsLeft_storedCopy (hseq : s.seq = .storedCopy) : stepsLeft s = blockSteps (blocksLeft s - 1) s + 1 := by
  simp only [stepsLeft, hseq]

theorem stepsLeft_matchCopy (hseq : s.seq = .matchCopy) : stepsLeft s = streamSteps s + 1 := by
  simp only [stepsLeft, hseq]

/-- A bitstream begins with at most 8 bits for each source byte. -/
theorem stepsLeft_enterBitstream (bh : BlockHeader) : stepsLeft (enterBitstream { s with bh := bh }) =
    blockSteps (blocksLeft s - 1) s + 2 * (8 * s.srcLen.toNat) + 1 := rfl

/-- Inside a bitstream a byte written leaves a step less. -/
theorem streamSteps_of_write (hcap : s.writePos.toNat < s.dstCap.toNat) (hlen : t.srcLen = s.srcLen)
    (hdst : t.dstCap = s.dstCap) (hpos : t.writePos = s.writePos + 1) (hblocks : blocksLeft t = blocksLeft s)
    (hbits : bitsLeft t = bitsLeft s) : streamSteps t < streamSteps s := by
  have hwrite := blockSteps_of_write (n := blocksLeft s - 1) hcap hlen hdst hpos
  rw [streamSteps, streamSteps, hblocks, hbits]
  omega

/-- Every step of a running decode lowers the bound, by the move that it makes. -/
theorem stepsLeft_lt_of_step (hp : s.pending = []) (hbusy : busy s = true) (htree : InvTree s) (hblocks : InvBlocks s)
    (h : step s = .next t) : stepsLeft t < stepsLeft s := by
  have index_lt {q : Seq} (hseq : s.seq = q) (hq : inBlock q = true) :
      s.blockIndex.toNat < s.ch.blockCount.toNat := hblocks (hseq ▸ hq)
  cases engineMove_of_step hp h with
  | rest hidle => exact absurd (hidle.symm.trans hbusy) nofun
  | fail => exact stepsLeft_pos hbusy
  | acceptContainer ch hseq =>
    have hs : stepsLeft s = blockSteps 65535 s + 514 := by simp only [stepsLeft, hseq]
    rw [hs]
    exact Nat.lt_succ_self _
  | beginTree hseq hindex => exact stepsLeft_beginTree_lt hseq hindex
  | buildNode leaf v hseq hpos hle => exact stepsLeft_buildNode_lt leaf v hseq hpos hle
  | endTree hseq hlt => exact stepsLeft_endTree_lt hseq hlt
  | beginStored bh hseq =>
    rw [stepsLeft_blockHeader hseq (index_lt hseq rfl)]
    exact Nat.add_lt_add_left (by omega) (blockSteps (blocksLeft s - 1) s)
  | beginCompressed bh hseq =>
    rw [stepsLeft_blockHeader hseq (index_lt hseq rfl), stepsLeft_enterBitstream]
    omega
  | storedByte v hseq hcap =>
    rw [stepsLeft_storedCopy hseq]
    refine lt_of_eq_of_lt (stepsLeft_storedCopy hseq) (Nat.add_lt_add_right ?_ 1)
    exact blockSteps_of_write hcap rfl rfl rfl
  | endStored hseq =>
    rw [stepsLeft_storedCopy hseq]
    exact Nat.lt_succ_of_le (stepsLeft_nextBlock_le (index_lt hseq rfl))
  | runCount r p hseq =>
    have hat : atCode s.seq = true := by rcases hseq with h | h <;> rw [h] <;> rfl
    have hindex := hseq.elim (index_lt · rfl) (index_lt · rfl)
    have ht := stepsLeft_loadRunCount_le (s := { s with bitPosition := p }) r hindex
    refine stepsLeft_lt_of_code hp (f := .lr) hseq rfl h hat ?_
    rw [loadRunCount_bitsLeft]
    exact ht.trans (Nat.le_succ _)
  | descend n p hseq hchild =>
    have hat : atCode s.seq = true := by rw [hseq]; rfl
    refine stepsLeft_lt_of_code hp (htree.dueAt_huf hseq hchild) rfl h hat ?_
    exact le_of_eq_of_le (stepsLeft_of_atCode hat) (Nat.le_succ _)
  | matchLength len p hseq =>
    have hat : atCode s.seq = true := by rw [hseq]; rfl
    obtain ⟨f, c, hdue, hcode⟩ := exists_dueAt_of_matchItem hseq
    refine stepsLeft_lt_of_code hp hdue hcode h hat ?_
    exact le_of_eq_of_le (stepsLeft_of_atCode hat) (Nat.le_succ _)
  | matchDistance len dist p hseq =>
    obtain ⟨f, c, hdue, hcode⟩ := exists_dueAt_of_matchItem hseq
    exact stepsLeft_lt_of_code hp hdue hcode h (by rw [hseq]; rfl) le_rfl
  | literal v hseq hcap =>
    rw [stepsLeft_of_atCode (s := s) (by rw [hseq]; rfl)]
    refine lt_of_eq_of_lt (stepsLeft_of_atCode ?_) (streamSteps_of_write hcap rfl rfl rfl rfl rfl)
    simp only
    split <;> rfl
  | copyByte v hseq _ hcap =>
    rw [stepsLeft_matchCopy hseq]
    exact lt_of_eq_of_lt (stepsLeft_matchCopy hseq)
      (Nat.succ_lt_succ (streamSteps_of_write hcap rfl rfl rfl rfl rfl))
  | endMatch hseq =>
    rw [stepsLeft_matchCopy hseq, stepsLeft_of_atCode (by rw [endMatch_seq]; split <;> rfl)]
    exact Nat.lt_succ_self _
  | finish hseq =>
    have hs : stepsLeft s = blockSteps 0 s := by simp only [stepsLeft, hseq]
    rw [hs]
    exact blockSteps_pos 0 s

/-! ### Every decode ends -/

/-- A running decode runs on, or ends in one of the two states that report its end. -/
theorem busy_or_ended_of_step (hp : s.pending = []) (hbusy : busy s = true) (h : step s = .next t) :
    busy t = true ∨ t.seq = .done ∨ t.seq = .error := by
  rcases (engineMove_of_step hp h).runs_or_ends with rfl | hruns | ⟨herror, _⟩ | ⟨hdone, _⟩
  · exact .inl hbusy
  · exact .inl hruns.busy_after
  · exact .inr (.inr herror)
  · exact .inr (.inl hdone)

/-- From inside a decode, or its end, as many steps as are left reach its end: by induction on their number. -/
theorem exists_run_ended (k : Nat) (hk : stepsLeft s ≤ k) (hp : s.pending = []) (htree : InvTree s)
    (hblocks : InvBlocks s) (hrun : busy s = true ∨ s.seq = .done ∨ s.seq = .error) :
    ∃ (n : Nat) (t : State), n ≤ k ∧ core.run n s = .next t ∧ (t.seq = .done ∨ t.seq = .error) := by
  induction k generalizing s with
  | zero =>
    rcases hrun with hbusy | hended
    · exact absurd (stepsLeft_pos hbusy) (Nat.not_lt.mpr hk)
    · exact ⟨0, s, le_rfl, rfl, hended⟩
  | succ k ih =>
    rcases hrun with hbusy | hended
    · obtain ⟨u, hstep, hpu⟩ := step_progress hp htree
      obtain ⟨htree', hblocks'⟩ := stepKeepsTreeAndBlocks s u htree hblocks hstep
      have hless := stepsLeft_lt_of_step hp hbusy htree hblocks hstep
      obtain ⟨n, t, hn, hrun, hended⟩ := ih (by omega) hpu htree' hblocks' (busy_or_ended_of_step hp hbusy hstep)
      exact ⟨n + 1, t, Nat.succ_le_succ hn, (run_of_step hstep n).trans hrun, hended⟩
    · exact ⟨0, s, Nat.zero_le _, rfl, hended⟩

theorem stepsLeft_startDecode_le (p : Bool) (s : State) :
    stepsLeft (startDecode p s) ≤ stepBound s.srcLen.toNat s.dstCap.toNat := by
  show 65535 * (16 * s.srcLen.toNat + 40) + (s.dstCap.toNat - 0) + 1 + 514 ≤ _
  rw [stepBound]
  omega

end

/-- Settles O60: what is left at START is within `stepBound`. -/
theorem everyDecodeEnds : Obligations.EveryDecodeEnds := by
  intro s p hp
  have htree : InvTree (startDecode p s) := invTree_elsewhere nofun rfl
  exact exists_run_ended _ (stepsLeft_startDecode_le p s) hp htree nofun (.inl rfl)

end Sys2Proof.Machine

/-! ## Reset and hazards

What the host may do while a decode runs, and what a reset leaves (70_reset_and_hazards.md): a law for each access
that is made differently while STATE is BUSY, then the statements about the due action. -/

namespace Sys2Proof.Machine

section
variable {s : State}

/-! ### Accesses while STATE is BUSY, and while it is not -/

/-- While STATE is BUSY no register takes a written value (70_reset_and_hazards.md R362). -/
theorem regWrite_busy (h : busy s = true) (off v : Word) : regWrite off v s = s := by
  rw [regWrite, if_pos h]

theorem hostAccess_writeSrc_idle (h : busy s = false) (a : Word) (v : Byte) :
    hostAccess (.writeSrc a v) s = .next { s with src := s.src.write a.toNat v } := by
  rw [hostAccess, h, if_neg nofun]

theorem hostAccess_writeSrc_busy (h : busy s = true) (a : Word) (v : Byte) :
    hostAccess (.writeSrc a v) s = .refused .hostMemoryWriteWhileBusy := by
  rw [hostAccess, if_pos h]

theorem hostAccess_writeDst_idle (h : busy s = false) (a : Word) (v : Byte) :
    hostAccess (.writeDst a v) s = .next { s with dst := s.dst.write a.toNat v } := by
  rw [hostAccess, h, if_neg nofun]

theorem hostAccess_writeDst_busy (h : busy s = true) (a : Word) (v : Byte) :
    hostAccess (.writeDst a v) s = .refused .hostMemoryWriteWhileBusy := by
  rw [hostAccess, if_pos h]

theorem hostAccess_readDst_idle (h : busy s = false) (a : Word) :
    hostAccess (.readDst a) s = .next { s with readData := (s.dst.read a.toNat).setWidth 32 } := by
  rw [hostAccess, h, if_neg nofun]

theorem hostAccess_readDst_busy (h : busy s = true) (a : Word) :
    hostAccess (.readDst a) s = .next (answerOpenByte s) := by
  rw [hostAccess, if_pos h]

/-- While STATE is BUSY an open register answers a free value (70_reset_and_hazards.md R360). -/
theorem hostAccess_readReg_open {off : Word} (h : busy s = true) (hopen : openWhileBusy off = true) :
    hostAccess (.readReg off) s = .next (answerOpen s) := by
  rw [hostAccess, h, hopen]
  rfl

end

/-! ### The statements -/

/-- Settles O30: a START is CMD.START, which is ignored while BUSY, and any other write is one no register takes. -/
theorem registerWritesIgnoredWhileBusy : Obligations.RegisterWritesIgnoredWhileBusy := by
  intro s off v rest hbusy hp
  have hbusy' : busy { s with pending := rest } = true := hbusy
  by_cases hstart : off = 0 ∧ v.getLsbD 0 = true
  · obtain ⟨rfl, hv⟩ := hstart
    obtain ⟨_, hignored⟩ := startBeginsDecode { s with pending := rest } (v.getLsbD 1)
    rw [startWriteRunsStart s v rest hp hv, hignored hbusy']
  · have hother (hoff : off = 0) : v.getLsbD 0 = false := Bool.eq_false_iff.mpr fun hv => hstart ⟨hoff, hv⟩
    rw [step_of_due hp (fetchHost_writeReg hother _), hostAccess, regWrite_busy hbusy']

/-- Settles O45: the step is `resetCore`, whose registers are those of `State.reset` (O44), and which takes PARAM,
the memories and the host's list from the state it resets. -/
theorem resetEventAbandonsDecode : Obligations.ResetEventAbandonsDecode := by
  intro s rest hp
  obtain ⟨hctrl, hstatus, hsrcLen, hdstCap, hresult, hwritePosReg, hfaultAddr, hfaultBitpos, hfaultBlock, _, hseq,
    hbitPosition, hbitBase, hwritePos, hblockStart, hblockIndex, hrun, hmatch, hdistance, htreeSize⟩ :=
    resetStateHoldsSpecValues
  have hparam : paramWord (resetCore { s with pending := rest }) = paramWord s := rfl
  exact ⟨resetCore { s with pending := rest }, step_of_due hp rfl, hctrl, hstatus, hsrcLen, hdstCap, hresult,
    hwritePosReg, hfaultAddr, hfaultBitpos, hfaultBlock, hparam, hseq, hbitPosition, hbitBase, hwritePos,
    hblockStart, hblockIndex, hrun, hmatch, hdistance, htreeSize, rfl, rfl, rfl⟩

/-- Settles O48, by the law of each access to a memory; the source's read asks nothing of STATE. -/
theorem hostLoadsMemories : Obligations.HostLoadsMemories := by
  intro s a v rest
  have hsame : busy s = busy { s with pending := rest } := rfl
  rw [hsame]
  refine ⟨fun hp => ⟨fun hidle => ?_, fun hbusy => ?_⟩, fun hp => ⟨fun hidle => ?_, fun hbusy => ?_⟩,
    fun hp => ?_, fun hp hidle => ?_⟩
  · exact (step_of_due hp rfl).trans (hostAccess_writeSrc_idle hidle a v)
  · exact (step_of_due hp rfl).trans (hostAccess_writeSrc_busy hbusy a v)
  · exact (step_of_due hp rfl).trans (hostAccess_writeDst_idle hidle a v)
  · exact (step_of_due hp rfl).trans (hostAccess_writeDst_busy hbusy a v)
  · exact step_of_due hp rfl
  · exact (step_of_due hp rfl).trans (hostAccess_readDst_idle hidle a)

/-- Settles O49: the five registers are the open ones, and a read of one, or of a destination byte, answers the next
free value. -/
theorem hostReadsOpenValueWhileBusy : Obligations.HostReadsOpenValueWhileBusy := by
  intro s act rest hbusy hp hact
  have hbusy' : busy { s with pending := rest } = true := hbusy
  have hkind : (∃ off, act = .readReg off ∧ openWhileBusy off = true) ∨ ∃ a, act = .readDst a := by
    rcases hact with h | h | h | h | h | h
    iterate 5 · exact .inl ⟨_, h, rfl⟩
    · exact .inr h
  rcases hkind with ⟨off, rfl, hopen⟩ | ⟨a, rfl⟩
  · exact ⟨_, (step_of_due hp rfl).trans (hostAccess_readReg_open hbusy' hopen)⟩
  · exact ⟨_, (step_of_due hp rfl).trans (hostAccess_readDst_busy hbusy' a)⟩

end Sys2Proof.Machine

/-! ## The memories

A step writes at most one byte of one memory, and a written byte keeps the canonical form. The host's moves leave open
what a memory holds after a write, so the bytes are read off the host's actions themselves. -/

namespace Sys2Proof.Machine

/-- `t` holds the memories of `s`, but for at most one byte written to one of them. -/
inductive StoresAtMostOne (s t : State) : Prop
  | nothing (hsrc : t.src = s.src) (hdst : t.dst = s.dst)
  | source (a : Nat) (v : Byte) (hsrc : t.src = s.src.write a v) (hdst : t.dst = s.dst)
  | destination (a : Nat) (v : Byte) (hsrc : t.src = s.src) (hdst : t.dst = s.dst.write a v)

section
variable {s t : State}

theorem InvMem.storesAtMostOne (hs : InvMem s) (h : StoresAtMostOne s t) : InvMem t := by
  obtain ⟨hsrc, hdst⟩ := hs
  cases h with
  | nothing esrc edst => exact ⟨esrc ▸ hsrc, edst ▸ hdst⟩
  | source a v esrc edst => exact ⟨esrc ▸ Memory.wf_write s.src a v hsrc, edst ▸ hdst⟩
  | destination a v esrc edst => exact ⟨esrc ▸ hsrc, edst ▸ Memory.wf_write s.dst a v hdst⟩

/-! ### What the engine and the host write -/

/-- The engine keeps the source (20_memory.md R80) and writes the destination at `writePos` alone. -/
theorem EngineMove.storesAtMostOne (h : EngineMove s t) : StoresAtMostOne s t := by
  have hsrc : t.src = s.src := h.sameInputs.src
  rcases h.output with ⟨_, hdst⟩ | ⟨_, _, _, v, hdst⟩
  · exact .nothing hsrc hdst
  · exact .destination _ v hsrc hdst

/-- CMD.START begins a decode over the memories as they are, or is ignored (44_container.md R270). -/
theorem cmdStart_keeps_memories {p : Bool} (h : exec (.cmdStart p) s = .next t) :
    t.src = s.src ∧ t.dst = s.dst := by
  obtain ⟨hstart, hignored⟩ := startBeginsDecode s p
  cases hbusy : busy s with
  | false => exact next_inj ((hstart hbusy).symm.trans h) ▸ ⟨rfl, rfl⟩
  | true => exact next_inj ((hignored hbusy).symm.trans h) ▸ ⟨rfl, rfl⟩

/-- A register write sets a register or nothing (10_state.md R31 to R35). -/
theorem regWrite_keeps_memories (off v : Word) (s : State) :
    (regWrite off v s).src = s.src ∧ (regWrite off v s).dst = s.dst := by
  unfold regWrite
  split_ifs <;> exact ⟨rfl, rfl⟩

/-- Only the host's two memory writes reach a memory, one byte each (70_reset_and_hazards.md R353). -/
theorem storesAtMostOne_of_hostAccess {act : HostAct} (h : hostAccess act s = .next t) :
    StoresAtMostOne s t := by
  cases act with
  | writeReg off v =>
    obtain rfl := next_inj h
    obtain ⟨hsrc, hdst⟩ := regWrite_keeps_memories off v s
    exact .nothing hsrc hdst
  | writeSrc a v =>
    cases hbusy : busy s with
    | false => exact next_inj ((hostAccess_writeSrc_idle hbusy a v).symm.trans h) ▸ .source a.toNat v rfl rfl
    | true => exact nomatch (hostAccess_writeSrc_busy hbusy a v).symm.trans h
  | writeDst a v =>
    cases hbusy : busy s with
    | false => exact next_inj ((hostAccess_writeDst_idle hbusy a v).symm.trans h) ▸ .destination a.toNat v rfl rfl
    | true => exact nomatch (hostAccess_writeDst_busy hbusy a v).symm.trans h
  | readReg | readDst =>
    obtain rfl := next_inj h
    split <;> exact .nothing rfl rfl
  | readSrc | reset => exact next_inj h ▸ .nothing rfl rfl

/-- The host's turn is CMD.START or one of its accesses. -/
theorem fetchHost_cases (act : HostAct) (s : State) :
    (∃ p, fetchHost act s = .instr (.cmdStart p) s) ∨ fetchHost act s = .other (hostAccess act s) := by
  cases act with
  | writeReg off v =>
    by_cases hstart : off = 0 ∧ v.getLsbD 0 = true
    · obtain ⟨rfl, hv⟩ := hstart
      exact .inl ⟨_, fetchHost_start hv s⟩
    · exact .inr (fetchHost_writeReg (fun hoff => Bool.eq_false_iff.mpr fun hv => hstart ⟨hoff, hv⟩) s)
  | readReg | writeSrc | readSrc | writeDst | readDst | reset => exact .inr rfl

theorem storesAtMostOne_of_fetchHost {act : HostAct} (h : (fetchHost act s).run = .next t) :
    StoresAtMostOne s t := by
  rcases fetchHost_cases act s with ⟨p, hfetch⟩ | hfetch <;> rw [hfetch] at h
  · obtain ⟨hsrc, hdst⟩ := cmdStart_keeps_memories h
    exact .nothing hsrc hdst
  · exact storesAtMostOne_of_hostAccess h

/-! ### What a step writes -/

/-- A step is the engine's or the host's, but for the list of the host's actions that it runs over. -/
theorem step_agent (h : step s = .next t) :
    ∃ p, EngineMove (s.withPending p) t ∨ ∃ act, (fetchHost act (s.withPending p)).run = .next t := by
  rw [step_eq_run_fetch] at h
  match hp : s.pending with
  | [] =>
    rw [fetch_of_pending_nil hp] at h
    exact ⟨s.pending, .inl (engineMove_of_fetchEngine h)⟩
  | { after := 0, act } :: rest =>
    rw [fetch_of_due hp] at h
    exact ⟨rest, .inr ⟨act, h⟩⟩
  | { after := n + 1, act } :: rest =>
    rw [fetch_of_after_succ hp rfl] at h
    exact ⟨_, .inl (engineMove_of_fetchEngine h)⟩

/-- The host's list of actions is no part of the memories. -/
theorem StoresAtMostOne.of_withPending {p : List HostEvent} (h : StoresAtMostOne (s.withPending p) t) :
    StoresAtMostOne s t := by
  cases h with
  | nothing hsrc hdst => exact .nothing hsrc hdst
  | source a v hsrc hdst => exact .source a v hsrc hdst
  | destination a v hsrc hdst => exact .destination a v hsrc hdst

theorem step_storesAtMostOne (h : step s = .next t) : StoresAtMostOne s t := by
  obtain ⟨p, hengine | ⟨act, hhost⟩⟩ := step_agent h
  · exact hengine.storesAtMostOne.of_withPending
  · exact (storesAtMostOne_of_fetchHost hhost).of_withPending

end

/-- Settles O51: what a step writes is one byte at most, and the write of a byte keeps the form. -/
theorem stepKeepsMemoryCanonical : Obligations.StepKeepsMemoryCanonical := fun _ _ hs h =>
  InvMem.storesAtMostOne hs (step_storesAtMostOne h)

end Sys2Proof.Machine
